-- ==== Sys2Proof/Word.lean ====
section
/-! DEFINITION. The word types of the block (00_scope.md R16). -/

namespace Sys2Proof

/-- A host register, operand or result: 32 bits (R16). -/
abbrev Word := BitVec 32

/-- One byte lane of the host bus (R56). -/
abbrev Byte := BitVec 8

/-- The 23-bit command-port word `mrd, nrfs_m1, target, mode` (R71). -/
abbrev PortWord := BitVec 23

end Sys2Proof
end

