-- ==== Sys2Proof/Syntax.lean ====
section
/-! DEFINITION. The instructions of the block: one constructor for each row of the opcode table. -/

namespace Sys2Proof

/-- The two word formats of the opcode table. -/
inductive Format where
  /-- `CMD32`: the 32-bit word a host writes to `CMD` (R65). -/
  | cmd32
  /-- `PORT23`: the 23-bit word the block sends on the controller command port (R71). -/
  | port23
deriving DecidableEq, Repr

/-- An instruction: a host command (R66), or a controller command that the block issues in a command state (R79, R82).
The ignored bits of a command word are no operand (R65, R69). -/
inductive Instr where
  /-- `NOP` (R103). -/
  | nop
  /-- `INIT` (R85). -/
  | init
  /-- `DEINIT` (R104). -/
  | deinit
  /-- `SETMR` (R106). -/
  | setmr
  /-- `SENDCMD` (R108). -/
  | sendcmd
  /-- `CHKRANGE` (R113). -/
  | chkrange
  /-- `CHKACC.B` (R114). -/
  | chkaccB
  /-- `CHKACC.H` (R114). -/
  | chkaccH
  /-- `CHKACC.W` (R114). -/
  | chkaccW
  /-- `RSVD.CHKACC`: `OP = 6` with the reserved `WIDTH = 3` (R120). -/
  | rsvdChkacc
  /-- `CALCREF` (R118). -/
  | calcref
  /-- `RSVD`: a reserved `OP`, 8 to 15 (R120). -/
  | rsvd (op : BitVec 4)
  /-- `PORT.NORMAL`, mode 0 (R79). -/
  | portNormal (target : BitVec 2) (nrfsM1 : BitVec 4) (mrd : BitVec 14)
  /-- `PORT.CLK_ENABLE`, mode 1 (R79, R87). -/
  | portClkEnable (target : BitVec 2) (nrfsM1 : BitVec 4) (mrd : BitVec 14)
  /-- `PORT.PALL`, mode 2 (R79, R89). -/
  | portPall (target : BitVec 2) (nrfsM1 : BitVec 4) (mrd : BitVec 14)
  /-- `PORT.AUTOREFRESH`, mode 3 (R79, R90). -/
  | portAutorefresh (target : BitVec 2) (nrfsM1 : BitVec 4) (mrd : BitVec 14)
  /-- `PORT.LOAD_MODE`, mode 4 (R79, R92, R107). -/
  | portLoadMode (target : BitVec 2) (nrfsM1 : BitVec 4) (mrd : BitVec 14)
  /-- `PORT.SELF_REFRESH`, mode 5 (R79, R108). -/
  | portSelfRefresh (target : BitVec 2) (nrfsM1 : BitVec 4) (mrd : BitVec 14)
  /-- `PORT.POWER_DOWN`, mode 6 (R79, R105). -/
  | portPowerDown (target : BitVec 2) (nrfsM1 : BitVec 4) (mrd : BitVec 14)
  /-- `PORT.RSVD`, the reserved mode 7 (R79, R108). -/
  | portRsvd (target : BitVec 2) (nrfsM1 : BitVec 4) (mrd : BitVec 14)
deriving DecidableEq, Repr

/-- The format of an instruction's word. -/
def Instr.format : Instr → Format
  | .nop => .cmd32
  | .init => .cmd32
  | .deinit => .cmd32
  | .setmr => .cmd32
  | .sendcmd => .cmd32
  | .chkrange => .cmd32
  | .chkaccB => .cmd32
  | .chkaccH => .cmd32
  | .chkaccW => .cmd32
  | .rsvdChkacc => .cmd32
  | .calcref => .cmd32
  | .rsvd _ => .cmd32
  | .portNormal _ _ _ => .port23
  | .portClkEnable _ _ _ => .port23
  | .portPall _ _ _ => .port23
  | .portAutorefresh _ _ _ => .port23
  | .portLoadMode _ _ _ => .port23
  | .portSelfRefresh _ _ _ => .port23
  | .portPowerDown _ _ _ => .port23
  | .portRsvd _ _ _ => .port23

end Sys2Proof
end

