-- ==== Sys2Proof/WellFormed.lean ====
section
/-! DEFINITION. Which terms of `Instr` are instructions of the opcode table. -/

namespace Sys2Proof

/-- The one operand an encoding restricts: the reserved `OP` values are 8 to 15 (R69, R120). Every value of a port word's
fields is admitted (R80: the block passes the target through; R81: counts 1 to 16; R74: any payload). -/
def Instr.wf : Instr → Bool
  | .rsvd op => op.msb
  | .nop => true
  | .init => true
  | .deinit => true
  | .setmr => true
  | .sendcmd => true
  | .chkrange => true
  | .chkaccB => true
  | .chkaccH => true
  | .chkaccW => true
  | .rsvdChkacc => true
  | .calcref => true
  | .portNormal _ _ _ => true
  | .portClkEnable _ _ _ => true
  | .portPall _ _ _ => true
  | .portAutorefresh _ _ _ => true
  | .portLoadMode _ _ _ => true
  | .portSelfRefresh _ _ _ => true
  | .portPowerDown _ _ _ => true
  | .portRsvd _ _ _ => true

end Sys2Proof
end

