-- ==== Sys2Proof/Decode.lean ====
section
/-! DEFINITION. Decoding of command words (30_encoding.md R65 to R69) and port words (R71, R79), and the encoder written from
the same tables. -/

namespace Sys2Proof

/-- Why bytes are no instruction word. -/
inductive DecodeReject where
  /-- A `CMD32` word has four bytes and a `PORT23` word three (R65, R71). -/
  | wrongByteCount
  /-- Bit 23 of the three bytes is set: a port word has 23 bits (R71). -/
  | portWordTooWide
deriving DecidableEq, Repr

/-- The `OP` field of a command word (R65). -/
def cmdOp (w : Word) : BitVec 4 := w.extractLsb' 0 4

/-- The `WIDTH` field of a command word (R65). -/
def cmdWidth (w : Word) : BitVec 2 := w.extractLsb' 4 2

/-- The instruction of a word written to `CMD` (R66, R67, R68). Bits 31:6 are ignored, and `WIDTH` is read only for
`OP = 6`. -/
def decodeCmd (w : Word) : Instr :=
  match (cmdOp w).toNat with
  | 0 => .nop
  | 1 => .init
  | 2 => .deinit
  | 3 => .setmr
  | 4 => .sendcmd
  | 5 => .chkrange
  | 6 =>
    match (cmdWidth w).toNat with
    | 0 => .chkaccB
    | 1 => .chkaccH
    | 2 => .chkaccW
    | _ => .rsvdChkacc
  | 7 => .calcref
  | _ => .rsvd (cmdOp w)

/-- `mode` of a port word, bits 2:0 (R71). -/
def portMode (w : PortWord) : BitVec 3 := w.extractLsb' 0 3

/-- `target` of a port word, bits 4:3 (R71). -/
def portTarget (w : PortWord) : BitVec 2 := w.extractLsb' 3 2

/-- `nrfs_m1` of a port word, bits 8:5 (R71). -/
def portNrfsM1 (w : PortWord) : BitVec 4 := w.extractLsb' 5 4

/-- `mrd` of a port word, bits 22:9 (R71). -/
def portMrd (w : PortWord) : BitVec 14 := w.extractLsb' 9 14

/-- The port word `mrd[13:0], nrfs_m1[3:0], target[1:0], mode[2:0]` (R71). -/
def packPort (mode : BitVec 3) (target : BitVec 2) (nrfsM1 : BitVec 4) (mrd : BitVec 14) : PortWord :=
  mrd ++ nrfsM1 ++ target ++ mode

/-- The instruction of a port word (R71, R79). -/
def decodePort (w : PortWord) : Instr :=
  match (portMode w).toNat with
  | 0 => .portNormal (portTarget w) (portNrfsM1 w) (portMrd w)
  | 1 => .portClkEnable (portTarget w) (portNrfsM1 w) (portMrd w)
  | 2 => .portPall (portTarget w) (portNrfsM1 w) (portMrd w)
  | 3 => .portAutorefresh (portTarget w) (portNrfsM1 w) (portMrd w)
  | 4 => .portLoadMode (portTarget w) (portNrfsM1 w) (portMrd w)
  | 5 => .portSelfRefresh (portTarget w) (portNrfsM1 w) (portMrd w)
  | 6 => .portPowerDown (portTarget w) (portNrfsM1 w) (portMrd w)
  | _ => .portRsvd (portTarget w) (portNrfsM1 w) (portMrd w)

/-- The instruction of a word's bytes, byte lane 0 first (R56). -/
def decode (f : Format) (bytes : List Byte) : Except DecodeReject Instr :=
  match f, bytes with
  | .cmd32, [b0, b1, b2, b3] => .ok (decodeCmd (b3 ++ b2 ++ b1 ++ b0))
  | .port23, [b0, b1, b2] =>
    if b2.msb then .error .portWordTooWide
    else .ok (decodePort ((b2 ++ b1 ++ b0 : BitVec 24).setWidth 23))
  | _, _ => .error .wrongByteCount

/-! The encoder. -/

/-- The word of an instruction, bit 0 its least significant bit; the ignored bits of a command word are 0
(R66, R67, R71, R79, and the match column of the opcode table). -/
def encodeWord : Instr → Word
  | .nop => 0x00
  | .init => 0x01
  | .deinit => 0x02
  | .setmr => 0x03
  | .sendcmd => 0x04
  | .chkrange => 0x05
  | .chkaccB => 0x06
  | .chkaccH => 0x16
  | .chkaccW => 0x26
  | .rsvdChkacc => 0x36
  | .calcref => 0x07
  | .rsvd op => op.setWidth 32
  | .portNormal t n m => (packPort 0 t n m).setWidth 32
  | .portClkEnable t n m => (packPort 1 t n m).setWidth 32
  | .portPall t n m => (packPort 2 t n m).setWidth 32
  | .portAutorefresh t n m => (packPort 3 t n m).setWidth 32
  | .portLoadMode t n m => (packPort 4 t n m).setWidth 32
  | .portSelfRefresh t n m => (packPort 5 t n m).setWidth 32
  | .portPowerDown t n m => (packPort 6 t n m).setWidth 32
  | .portRsvd t n m => (packPort 7 t n m).setWidth 32

/-- Byte lane `k` of a word: bits `8k+7 : 8k` (R56). -/
def byteLane (w : Word) (k : Nat) : Byte := w.extractLsb' (8 * k) 8

/-- The bytes of an instruction's word, lane 0 first: four of a command word, three of a port word. -/
def encode (i : Instr) : List Byte :=
  let w := encodeWord i
  match i.format with
  | .cmd32 => [byteLane w 0, byteLane w 1, byteLane w 2, byteLane w 3]
  | .port23 => [byteLane w 0, byteLane w 1, byteLane w 2]

/-! The opcode table's numbering. -/

/-- Which format a table word of `nbits` bits has: 17 to 24 bits is a `PORT23` word (23 bits in whole bytes), any other
width is a `CMD32` word, whose bits above `nbits` are 0 (log entry 17). -/
def formatOfBits (nbits : Nat) : Format :=
  if 17 ≤ nbits ∧ nbits ≤ 24 then .port23 else .cmd32

/-- What `decode` reads from a table word of `nbits` bits, laid out in byte lanes; none where it refuses, or where `w` has
a bit the format has no byte for. -/
def decodeTableWord (nbits w : Nat) : Option Instr :=
  let lane (k : Nat) : Byte := BitVec.ofNat 8 (w / 2 ^ (8 * k))
  match formatOfBits nbits with
  | .cmd32 =>
    if w < 4294967296 then (decode .cmd32 [lane 0, lane 1, lane 2, lane 3]).toOption else none
  | .port23 =>
    if w < 16777216 then (decode .port23 [lane 0, lane 1, lane 2]).toOption else none

end Sys2Proof
end

