-- ==== Sys2Proof/Config.lean ====
section
/-! DEFINITION. What one implementation of the block fixes (00_scope.md R6 to R13, the open-parameter table of
92_eei_decisions.md), and the values nothing fixes. -/

namespace Sys2Proof

/-- How `round` treats a tie in CALCREF: `P_ROUND_TIES` (R119). -/
inductive RoundTies where
  | up
  | even
  | down
deriving DecidableEq, Repr

/-- The parameters of the block, with the constraints the spec puts on them: a value of this type is a legal
configuration. Every state holds one and no step changes it, so a statement about every state is a statement about every
legal configuration (log entry 2). -/
structure Params where
  /-- `P_CAPACITY`, bytes in the DRAM window (R6). -/
  capacity : Nat
  /-- `P_ROW_COUNT` (R7). -/
  rowCount : Nat
  /-- `P_BASE_ADDR`, the bus address of DRAM byte offset 0; OPEN (R8). -/
  baseAddr : Nat
  /-- `P_AREF_COUNT`, refreshes of the step-4 command (R9). -/
  arefCount : Nat
  /-- `P_POWERUP_DELAY_TICKS` (R10). -/
  powerupDelayTicks : Nat
  /-- `P_TICK_PERIOD` in microseconds (R11). -/
  tickPeriodUs : Nat
  /-- `P_CMD_TIMEOUT`, passed with every controller command; OPEN (R12). -/
  cmdTimeout : Word
  /-- `P_CAS_LSB`, low bit of the controller's CAS subfield; OPEN, default 7 (R13). -/
  casLsb : Nat
  /-- `P_REG_BASE`, the bus address of register offset 0; OPEN (R60). -/
  regBase : Nat
  /-- `P_REG_SPAN`, bytes in the block's decode window; OPEN (R47). -/
  regSpan : Nat
  /-- `P_CTLREG_ADDR`, the bus address of `CTLREG`; OPEN, of no consequence to the block (R60). -/
  ctlregAddr : Nat
  /-- `P_ROUND_TIES`; OPEN, default `up` (R119). -/
  roundTies : RoundTies
  /-- `P_ROW_COUNT` must be non-zero (R7). -/
  rowCount_pos : 0 < rowCount
  /-- `P_BASE_ADDR mod 4 = 0` (R8). -/
  baseAddr_mod_four : baseAddr % 4 = 0
  /-- `P_BASE_ADDR + P_CAPACITY <= 2^32` (R8). -/
  window_fits : baseAddr + capacity ≤ 4294967296
  /-- The 32-bit register `CAPACITY` reads `P_CAPACITY` (R16, R36); DEDUCED, log entry 3. -/
  capacity_fits : capacity < 4294967296
  /-- The legal range of `P_AREF_COUNT` is 2 to 16 (R9). -/
  arefCount_ge : 2 ≤ arefCount
  /-- The legal range of `P_AREF_COUNT` is 2 to 16 (R9). -/
  arefCount_le : arefCount ≤ 16
  /-- `P_POWERUP_DELAY_TICKS × P_TICK_PERIOD >= 100 µs` (R10). -/
  delay_ge : 100 ≤ powerupDelayTicks * tickPeriodUs
  /-- `P_CAS_LSB <= 30` (R13). -/
  casLsb_le : casLsb ≤ 30
  /-- `P_REG_BASE` is a multiple of 4 (92_eei_decisions.md, open parameters). -/
  regBase_mod_four : regBase % 4 = 0
  /-- `P_REG_SPAN` is at least 0x40 (R47). -/
  regSpan_ge : 64 ≤ regSpan
deriving DecidableEq, Repr

/-- The parameters of `State.reset`: the spec's values and defaults (R6, R7, R9, R10, R11, R13, R119); for the OPEN
parameters that have no default, the values log entry 2 names. DESIGN CHOICE for those (no statement rests on one). -/
def Config.defaultParams : Params where
  capacity := 0x02000000
  rowCount := 4096
  baseAddr := 0xC0000000
  arefCount := 8
  powerupDelayTicks := 1
  tickPeriodUs := 1000
  cmdTimeout := 0
  casLsb := 7
  regBase := 0
  regSpan := 0x40
  ctlregAddr := 0
  roundTies := .up
  rowCount_pos := by decide
  baseAddr_mod_four := by decide
  window_fits := by decide
  capacity_fits := by decide
  arefCount_ge := by decide
  arefCount_le := by decide
  delay_ge := by decide
  casLsb_le := by decide
  regBase_mod_four := by decide
  regSpan_ge := by decide

/-- A free word: the `n`-th value the surroundings of the block pick where the spec says "any value"
(93_implementation_defined.md U4, U11, U14). It has no body, so nothing can be proved of its value; `State.draws` counts the
values taken (log entry 6). -/
opaque Config.freeWord : Nat → Word

end Sys2Proof
end

