-- ==== Sys2Proof/Machine/State.lean ====
section
/-! DEFINITION. Everything the spec gives the machine: the block's registers and internal state (10_state.md), the
controller's timing register (R41), the inputs still to come and the port events so far. -/

namespace Sys2Proof.Machine

open Sys2Proof

/-- The values of the state register `fsm` that the block enters (R37; 12 to 31 are never entered). -/
inductive Fsm where
  /-- 0: waits for a `CMD` write. -/
  | idle
  /-- 1, `I_CKE`: INIT step 1. -/
  | iCke
  /-- 2, `I_DLY`: INIT step 2. -/
  | iDly
  /-- 3, `I_PALL`: INIT step 3. -/
  | iPall
  /-- 4, `I_AREF`: INIT step 4. -/
  | iAref
  /-- 5, `I_RDCAS`: INIT step 5a. -/
  | iRdcas
  /-- 6, `I_LMR`: INIT step 5b. -/
  | iLmr
  /-- 7, `I_RECON`: INIT step 6. -/
  | iRecon
  /-- 8, `I_RTR`: INIT step 7. -/
  | iRtr
  /-- 9, `D_PD`: DEINIT. -/
  | dPd
  /-- 10, `M_LMR`: SETMR. -/
  | mLmr
  /-- 11, `S_CMD`: SENDCMD. -/
  | sCmd
deriving DecidableEq, Repr

/-- The handshake phase `cphase` (R40, R53). -/
inductive Phase where
  | enter
  | wait
deriving DecidableEq, Repr

/-- `RESULT.CODE`, the status codes (R122). -/
inductive StatusCode where
  | ok
  | error
  | busy
  | timeout
  | invalidParameter
deriving DecidableEq, Repr

/-- `RESULT.REASON` (R123). -/
inductive Reason where
  | none
  | nullBuffer
  | zeroSize
  | offsetRange
  | endRange
  | reservedEnc
  | nullConfig
  | arith
deriving DecidableEq, Repr

/-- The register `RESULT` by fields; its reserved bits hold nothing (R27). `resultWord` gives the word a host reads. -/
structure Result where
  code : StatusCode
  aligned : Bool
  reason : Reason
  step : BitVec 3
  op : BitVec 4
  patched : Bool
deriving DecidableEq, Repr

/-- The width of a host access; only `word` is admitted (R46). -/
inductive AccessWidth where
  | byte
  | half
  | word
deriving DecidableEq, Repr

/-- One host access to the block, at a byte offset from `P_REG_BASE` (R45, R83). -/
inductive HostAccess where
  | read (width : AccessWidth) (off : Nat)
  | write (width : AccessWidth) (off : Nat) (data : Word)
deriving DecidableEq, Repr

/-- What the surroundings give the block in one clock cycle with `rst = 0`: at most one host access (R45), the tick strobe
(R51), the controller's answers (R48, R49), and a write of another agent to `CTLREG` (R59, U14). -/
structure Pins where
  host : Option HostAccess := none
  tick : Bool := false
  cmdDone : Bool := false
  cmdOk : Bool := false
  rtrDone : Bool := false
  rtrOk : Bool := false
  ctlOther : Option Word := none
deriving DecidableEq, Repr

/-- One rising edge of `clk`: with `rst = 1`, or with `rst = 0` and the cycle's inputs (R52, R139). -/
inductive Edge where
  | reset (ctlOther : Option Word)
  | clock (pins : Pins)
deriving DecidableEq, Repr

/-- What the block's ports have shown: a read's data on the host bus (R45), an answered command (R48), an answered
refresh-timer request (R49), and the accesses to `CTLREG` (R50). -/
inductive PortEvent where
  | hostRead (off : Nat) (data : Word)
  | cmd (word : PortWord) (ok : Bool)
  | rtr (value : Word) (ok : Bool)
  | ctlRead (value : Word)
  | ctlWrite (value : Word)
deriving DecidableEq, Repr

/-- The machine. INVENTORY.md's State section names the rule and the reset value of each field. -/
structure State where
  /-- The parameters; no step changes them. -/
  params : Params
  /-- `STATUS.ATTACHED` (R26). -/
  attached : Bool
  /-- `STATUS.REJECTED` (R24, R126). -/
  rejected : Bool
  /-- `RESULT` (R27). -/
  result : Result
  /-- `RESVAL` (R28). -/
  resval : Word
  /-- `CFG0`, staged configuration (R29). -/
  cfg0 : Word
  /-- `CFG1`, staged refresh-timer value (R30). -/
  cfg1 : Word
  /-- `MRRAW` (R31). -/
  mrraw : Word
  /-- `SCMD` (R32). -/
  scmd : Word
  /-- `OFFSET` (R33). -/
  offset : Word
  /-- `LEN` (R33). -/
  len : Word
  /-- `BUF` (R33). -/
  buf : Word
  /-- `CLKMHZ` (R33). -/
  clkmhz : Word
  /-- `REFMS` (R33). -/
  refms : Word
  /-- `CFGA0`, active configuration (R34). -/
  cfga0 : Word
  /-- `CFGA1`, active refresh-timer value (R34). -/
  cfga1 : Word
  /-- The state register, in the part of a program counter (R18, R37). -/
  fsm : Fsm
  /-- The handshake phase (R40). -/
  cphase : Phase
  /-- The tick count of `I_DLY` (R39). -/
  dcnt : Nat
  /-- Latch `L_CFG0` (R38). -/
  lCfg0 : BitVec 14
  /-- Latch `L_CFG1` (R38). -/
  lCfg1 : Word
  /-- Latch `L_MR` (R38). -/
  lMr : BitVec 14
  /-- Latch `L_SCMD` (R38). -/
  lScmd : PortWord
  /-- Latch `L_TGT` (R38). -/
  lTgt : BitVec 2
  /-- Latch `mrcas` (R38). -/
  mrcas : BitVec 3
  /-- The outputs `ctl_we` and `ctl_wdata` of this cycle: none while `ctl_we = 0` (R50, R140). -/
  ctlOut : Option Word
  /-- `CTLREG`, the controller's timing register (R41). -/
  ctlreg : Word
  /-- The model's own: the clock edges to come, the next one first. Past its end the surroundings stay quiet. -/
  inputs : List Edge
  /-- The model's own: how many free words have been taken. -/
  draws : Nat
  /-- The model's own: the port events so far, the latest first. -/
  trace : List PortEvent
deriving DecidableEq, Repr

/-- Every register at its reset value (R140); `CTLREG` at 0, a value the spec leaves open (DESIGN CHOICE, log entry 5). -/
def State.reset : State where
  params := Config.defaultParams
  attached := false
  rejected := false
  result := { code := .ok, aligned := false, reason := .none, step := 0, op := 0, patched := false }
  resval := 0
  cfg0 := 0
  cfg1 := 0
  mrraw := 0
  scmd := 0
  offset := 0
  len := 0
  buf := 0
  clkmhz := 0
  refms := 0
  cfga0 := 0
  cfga1 := 0
  fsm := .idle
  cphase := .enter
  dcnt := 0
  lCfg0 := 0
  lCfg1 := 0
  lMr := 0
  lScmd := 0
  lTgt := 0
  mrcas := 0
  ctlOut := none
  ctlreg := 0
  inputs := []
  draws := 0
  trace := []

/-- The reasons the machine stops with a fault: the spec has none, since every status code is an ordinary result (R132) and
the block has no traps (60_exceptions.md, opening). So there is no constructor, and no step can fault. -/
inductive Fault where
deriving DecidableEq, Repr

/-- The reasons a step gives no next state. -/
inductive Refusal where
  /-- Raised by an arm of `exec` whose instruction has no meaning yet; safe. No arm of this model raises it. -/
  | notModelled (mnemonic : String)
  /-- Raised by the host phase of a step on an 8- or 16-bit host access, which the spec itself gives no meaning (R46, U10);
  safe. -/
  | subWordAccess
  /-- Raised by the host phase of a step on a 32-bit host access at an offset that is no multiple of 4, which the spec itself
  gives no meaning (R46, U10); safe. -/
  | misalignedAccess
deriving DecidableEq, Repr

end Sys2Proof.Machine
end

