-- ==== Sys2Proof/Machine/Operands.lean ====
section
/-! DEFINITION. The operands of the operations: register fields and write masks (10_state.md R29 to R34), the mode register
and the CAS encodings (30_encoding.md R72 to R78), and the port word of each command state (R82). -/

namespace Sys2Proof.Machine

open Sys2Proof

/-! Register fields and write masks. -/

/-- Bits of `CFG0` that are stored: 31, 13:12 and 9:0 (R29). -/
def cfg0Mask : Word := 0x800033FF

/-- Bits of `MRRAW` that are stored: 13:0 (R31). -/
def mrrawMask : Word := 0x00003FFF

/-- Bits of `SCMD` that are stored: 22:0 (R32). -/
def scmdMask : Word := 0x007FFFFF

/-- Bits of `CFGA0` that have a field, in the layout of `CFG0[13:0]` (R34). -/
def cfga0Mask : Word := 0x000033FF

/-- `CFG0.VALID`, bit 31 (R29). -/
def cfgValid (v : Word) : Bool := v.getLsbD 31

/-- The `TARGET` field, bits 13:12, of `CFG0` and `CFGA0` (R29, R34). -/
def cfgTarget (v : Word) : BitVec 2 := v.extractLsb' 12 2

/-- The `TARGET` field of the latch `L_CFG0` (R82). -/
def latchTarget (c : BitVec 14) : BitVec 2 := c.extractLsb' 12 2

/-- The CAS field, bits 6:4, of a mode-register payload (R72). -/
def mrCasField (m : BitVec 14) : BitVec 3 := m.extractLsb' 4 3

/-- The CAS field, bits 6:4, of `CFG0` and `CFGA0` (R29, R34). -/
def cfgCasField (v : Word) : BitVec 3 := v.extractLsb' 4 3

/-- `SCMD.MODE`, bits 2:0 (R32). -/
def scmdMode (v : Word) : BitVec 3 := v.extractLsb' 0 3

/-! The mode register and CAS. -/

/-- `MrBuild(c, m)` (R73). -/
def mrBuild (c : BitVec 14) (m : BitVec 3) : BitVec 14 := (c &&& 0x038F) ||| (m.setWidth 14 <<< 4)

/-- The controller's CAS subfield `[P_CAS_LSB+1 : P_CAS_LSB]` of a `CTLREG` value (R41, R76). -/
def casField (lsb : Nat) (r : Word) : BitVec 2 := r.extractLsb' lsb 2

/-- `CasCtlToMr(c)`: an unrecognised encoding defaults to CAS3 (R77). -/
def casCtlToMr (c : BitVec 2) : BitVec 3 :=
  if c = 0b10 then 0b010 else 0b011

/-- `CasMrToCtl(m)` (R78). -/
def casMrToCtl (m : BitVec 3) : BitVec 2 :=
  if m = 0b010 then 0b10 else 0b11

/-- The value `I_RECON` writes: `r` with its CAS subfield cleared and `e` put in (R93). -/
def patchCas (lsb : Nat) (e : BitVec 2) (r : Word) : Word :=
  (r &&& ~~~((0b11 : Word) <<< lsb)) ||| (e.setWidth 32 <<< lsb)

/-- The active configuration a successful INIT stores: the staged fields with the CAS code loaded (R94, R100). -/
def initCfga0 (c : BitVec 14) (m : BitVec 3) : Word :=
  ((c &&& 0x338F).setWidth 32) ||| (m.setWidth 32 <<< 4)

/-- The active configuration after a successful SETMR: BL, BT, CAS and WB (bits 2:0, 3, 6:4 and 9) come from the payload,
and every other bit stays (R107). -/
def setmrCfga0 (a : Word) (m : BitVec 14) : Word :=
  (a &&& ~~~0x27F) ||| ((m &&& 0x27F).setWidth 32)

/-! Port words. -/

/-- The states that hold a transaction on the command port (R40, R82). -/
def Fsm.onCmdPort : Fsm → Bool
  | .iCke => true
  | .iPall => true
  | .iAref => true
  | .iLmr => true
  | .dPd => true
  | .mLmr => true
  | .sCmd => true
  | .idle => false
  | .iDly => false
  | .iRdcas => false
  | .iRecon => false
  | .iRtr => false

/-- The INIT states `I_CKE .. I_RTR` (R37, R43). -/
def Fsm.inInit : Fsm → Bool
  | .iCke => true
  | .iDly => true
  | .iPall => true
  | .iAref => true
  | .iRdcas => true
  | .iLmr => true
  | .iRecon => true
  | .iRtr => true
  | .idle => false
  | .dPd => false
  | .mLmr => false
  | .sCmd => false

/-- `nrfs_m1` of the step-4 command: `P_AREF_COUNT - 1` (R81). -/
def arefNrfsM1 (p : Params) : BitVec 4 := BitVec.ofNat 4 (p.arefCount - 1)

/-- The port word of the command the block issues in a command state (R82); none in the states that have no command. -/
def State.portWord (s : State) : Option PortWord :=
  match s.fsm with
  | .iCke => some (packPort 1 (latchTarget s.lCfg0) 0 0)
  | .iPall => some (packPort 2 (latchTarget s.lCfg0) 0 0)
  | .iAref => some (packPort 3 (latchTarget s.lCfg0) (arefNrfsM1 s.params) 0)
  | .iLmr => some (packPort 4 (latchTarget s.lCfg0) 0 s.lMr)
  | .dPd => some (packPort 6 s.lTgt 0 0)
  | .mLmr => some (packPort 4 s.lTgt 0 s.lMr)
  | .sCmd => some s.lScmd
  | .idle => none
  | .iDly => none
  | .iRdcas => none
  | .iRecon => none
  | .iRtr => none

end Sys2Proof.Machine
end

