-- ==== Sys2Proof/Machine/Flags.lean ====
section
/-! DEFINITION. What the result and status fields become: the numeric codes (R24, R27, R37, R122, R123), the range check
(R111), the alignment flag (R115) and the refresh count (R118, R119). -/

namespace Sys2Proof.Machine

open Sys2Proof

/-! Codes and the words a host reads. -/

/-- The number of an `fsm` state (R37). -/
def Fsm.code : Fsm → BitVec 5
  | .idle => 0
  | .iCke => 1
  | .iDly => 2
  | .iPall => 3
  | .iAref => 4
  | .iRdcas => 5
  | .iLmr => 6
  | .iRecon => 7
  | .iRtr => 8
  | .dPd => 9
  | .mLmr => 10
  | .sCmd => 11

/-- The number of a status code (R122). -/
def StatusCode.code : StatusCode → BitVec 3
  | .ok => 0
  | .error => 1
  | .busy => 2
  | .timeout => 3
  | .invalidParameter => 4

/-- The number of a reason (R123). -/
def Reason.code : Reason → BitVec 3
  | .none => 0
  | .nullBuffer => 1
  | .zeroSize => 2
  | .offsetRange => 3
  | .endRange => 4
  | .reservedEnc => 5
  | .nullConfig => 6
  | .arith => 7

/-- The word a host reads from `RESULT` (R27). -/
def resultWord (r : Result) : Word :=
  (0 : BitVec 15) ++ BitVec.ofBool r.patched ++ r.op ++ (0 : BitVec 1) ++ r.step ++ (0 : BitVec 1)
    ++ r.reason.code ++ BitVec.ofBool r.aligned ++ r.code.code

/-- `STATUS.BUSY`: not stored, 1 exactly when `fsm != IDLE` (R25). -/
def State.busy (s : State) : Bool := s.fsm != .idle

/-- The word a host reads from `STATUS` (R24). -/
def statusWord (s : State) : Word :=
  (0 : BitVec 19) ++ s.fsm.code ++ (0 : BitVec 5) ++ BitVec.ofBool s.rejected ++ BitVec.ofBool s.attached
    ++ BitVec.ofBool s.busy

/-- `RESULT` as dispatch leaves it: `OP` set, every other field 0 (R68). -/
def resultOfOp (op : BitVec 4) : Result :=
  { code := .ok, aligned := false, reason := .none, step := 0, op := op, patched := false }

/-! The checks and the refresh count, exact over the naturals (R109). -/

/-- `CheckRange(o, s)` against the capacity: the first condition that holds gives the reason (R111). -/
def checkRange (capacity o s : Nat) : StatusCode × Reason :=
  if capacity ≤ o then (.invalidParameter, .offsetRange)
  else if s = 0 then (.invalidParameter, .zeroSize)
  else if capacity - o < s then (.invalidParameter, .endRange)
  else (.ok, .none)

/-- `Aligned(a, d, e)` (R115). -/
def alignedTo (a d e : Nat) : Bool := a % e == 0 && d % e == 0

/-- `round(N / R)`: the nearest natural, a tie rounded as `P_ROUND_TIES` says (R118 for `up`, R119). -/
def roundQuot (ties : RoundTies) (n r : Nat) : Nat :=
  match ties with
  | .up => (2 * n + r) / (2 * r)
  | .down => if 2 * (n % r) ≤ r then n / r else n / r + 1
  | .even =>
    if 2 * (n % r) = r then n / r + n / r % 2
    else (2 * n + r) / (2 * r)

/-- The refresh count of `CLKMHZ = f` and `REFMS = t`: the rounded quotient, raised to the next even number (R118). -/
def refreshCount (p : Params) (f t : Nat) : Nat :=
  let raw := roundQuot p.roundTies (t * 1000 * f) p.rowCount
  raw + raw % 2

end Sys2Proof.Machine
end

