-- ==== Sys2Proof/Machine/Ops.lean ====
section
/-! DEFINITION. The named operations the meanings share: host access to the registers (R22 to R36, R45, R47), dispatch of a
command (R68), ending an operation (R125, R95) and the controller transaction (R48, R53). -/

namespace Sys2Proof.Machine

open Sys2Proof

/-! The inputs of the current cycle. -/

/-- The inputs of the cycle at hand: those of the next clock edge; quiet where there is none. -/
def State.pins (s : State) : Pins :=
  match s.inputs with
  | .clock p :: _ => p
  | .reset _ :: _ => {}
  | [] => {}

/-! Host access to the registers. -/

/-- What a 32-bit aligned host read at a mapped offset returns (R22 to R36). -/
def readMapped (s : State) : Nat → Option Word
  | 0x00 => some 0
  | 0x04 => some (statusWord s)
  | 0x08 => some (resultWord s.result)
  | 0x0C => some s.resval
  | 0x10 => some s.cfg0
  | 0x14 => some s.cfg1
  | 0x18 => some s.mrraw
  | 0x1C => some s.scmd
  | 0x20 => some s.offset
  | 0x24 => some s.len
  | 0x28 => some s.buf
  | 0x2C => some s.clkmhz
  | 0x30 => some s.refms
  | 0x34 => some s.cfga0
  | 0x38 => some s.cfga1
  | 0x3C => some (BitVec.ofNat 32 s.params.capacity)
  | _ => none

/-- The port events with one more. -/
def State.record (e : PortEvent) (s : State) : State := { s with trace := e :: s.trace }

/-- A 32-bit aligned host read: a mapped register; 0 at another offset inside the decode window (R47); outside it, where the
platform decides, a free word (93_implementation_defined.md U11). -/
def State.hostRead (off : Nat) (s : State) : State :=
  match readMapped s off with
  | some v => s.record (.hostRead off v)
  | none =>
    if off < s.params.regSpan then s.record (.hostRead off 0)
    else { s with draws := s.draws + 1, trace := .hostRead off (Config.freeWord s.draws) :: s.trace }

/-- A 32-bit aligned host write to any offset but that of `CMD`: each register's own write rule; the read-only registers and
the offsets with no register ignore it (R22 to R36, R47). -/
def State.hostWrite (off : Nat) (v : Word) (s : State) : State :=
  match off with
  | 0x04 => if v.getLsbD 2 then { s with rejected := false } else s
  | 0x10 => { s with cfg0 := v &&& cfg0Mask }
  | 0x14 => { s with cfg1 := v }
  | 0x18 => { s with mrraw := v &&& mrrawMask }
  | 0x1C => { s with scmd := v &&& scmdMask }
  | 0x20 => { s with offset := v }
  | 0x24 => { s with len := v }
  | 0x28 => { s with buf := v }
  | 0x2C => { s with clkmhz := v }
  | 0x30 => { s with refms := v }
  | _ => s

/-! Dispatch and the end of an operation. -/

/-- A `CMD` write while busy: `REJECTED` is set and nothing else changes (R126). -/
def State.reject (s : State) : State := { s with rejected := true }

/-- What dispatch does before the operation's own rule (R68). -/
def State.clearResult (op : BitVec 4) (s : State) : State := { s with result := resultOfOp op, resval := 0 }

/-- Dispatch of a non-NOP command: rejected while busy, else the operation's own rule on the cleared result (R68). -/
def State.dispatch (op : BitVec 4) (body : State → State) (s : State) : State :=
  if s.fsm = .idle then body (s.clearResult op) else s.reject

/-- `finish(code, reason)`: the block's whole trap mechanism (R125). -/
def State.finish (code : StatusCode) (reason : Reason) (s : State) : State :=
  { s with result := { s.result with code := code, reason := reason }, fsm := .idle }

/-- `RESULT.CODE <- Busy`, `fsm <- f`, `cphase <- ENTER`: the last step of accepting a sequence operation (R85, R104, R106,
R108). -/
def State.start (f : Fsm) (s : State) : State :=
  { s with result := { s.result with code := .busy }, fsm := f, cphase := .enter }

/-- The transition into a command state (R40). -/
def State.enter (f : Fsm) (s : State) : State := { s with fsm := f, cphase := .enter }

/-- The driver handle and the active configuration cleared (R95, R105). -/
def State.detach (s : State) : State := { s with attached := false, cfga0 := 0, cfga1 := 0 }

/-- `fail(n)`: the failure exit of INIT from step `n` (R95). It leaves `CTLREG` as it is: the spec says so of the patch before
a step-7 failure (R95), and gives the controller any value after a failed INIT elsewhere (93_implementation_defined.md U4).
DESIGN CHOICE for the other failures, unsafe; log entry 21. -/
def State.initFail (n : BitVec 3) (s : State) : State :=
  ({ s.detach with result := { s.result with step := n } } : State).finish .error .none

/-! The controller transaction. -/

/-- What a command state does with its response (R87, R89, R90, R92, R105, R107, R108). A state that has no command takes no
response. -/
def State.cmdResponse (ok : Bool) (s : State) : State :=
  match s.fsm with
  | .iCke => if ok then { s with dcnt := 0, fsm := .iDly } else s.initFail 1
  | .iPall => if ok then s.enter .iAref else s.initFail 3
  | .iAref => if ok then { s with fsm := .iRdcas } else s.initFail 4
  | .iLmr => if ok then { s with fsm := .iRecon } else s.initFail 5
  | .dPd => s.detach.finish .ok .none
  | .mLmr =>
    if ok then ({ s with cfga0 := setmrCfga0 s.cfga0 s.lMr } : State).finish .ok .none
    else s.finish .error .none
  | .sCmd => if ok then s.finish .ok .none else s.finish .error .none
  | .idle => s
  | .iDly => s
  | .iRdcas => s
  | .iRecon => s
  | .iRtr => s

/-- One clock edge of `CtlCmd` with the port word `w` (R48, R53): the `ENTER` cycle, in which `cmd_req = 0`; then cycles with
`cmd_req = 1`, until the first with `cmd_done = 1`, in which `cmd_ok` is sampled and the state's transition taken. In a state
that has no command no request is outstanding and the response inputs are ignored (R141). -/
def State.ctlCmd (w : PortWord) (s : State) : State :=
  if s.fsm.onCmdPort then
    match s.cphase with
    | .enter => { s with cphase := .wait }
    | .wait => if s.pins.cmdDone then (s.record (.cmd w s.pins.cmdOk)).cmdResponse s.pins.cmdOk else s
  else s

end Sys2Proof.Machine
end

