-- ==== Sys2Proof/Machine/Sequencer.lean ====
section
/-! DEFINITION. The sequencer commands NOP, INIT, DEINIT, SETMR and SENDCMD (R85, R103 to R108), and the INIT states that
send no command: the delay, the CAS read, the reconciliation and the refresh-timer write (R88, R91, R93, R94). -/

namespace Sys2Proof.Machine

open Sys2Proof

/-! The commands. -/

/-- `NOP`: nothing, while idle (R103); rejected while busy (R126). -/
def execNop (s : State) : Host.Outcome State Fault Refusal :=
  .next (if s.fsm = .idle then s else s.reject)

/-- The acceptance of INIT (R85). -/
def State.acceptInit (s : State) : State :=
  if cfgValid s.cfg0 then
    ({ s with lCfg0 := s.cfg0.extractLsb' 0 14, lCfg1 := s.cfg1, attached := false } : State).start .iCke
  else s.finish .invalidParameter .nullConfig

/-- `INIT` (R85). -/
def execInit (s : State) : Host.Outcome State Fault Refusal :=
  .next (s.dispatch 1 State.acceptInit)

/-- The acceptance of DEINIT (R104). -/
def State.acceptDeinit (s : State) : State :=
  if s.attached then ({ s with lTgt := cfgTarget s.cfga0 } : State).start .dPd
  else s.finish .ok .none

/-- `DEINIT` (R104). -/
def execDeinit (s : State) : Host.Outcome State Fault Refusal :=
  .next (s.dispatch 2 State.acceptDeinit)

/-- The acceptance of SETMR (R106). -/
def State.acceptSetmr (s : State) : State :=
  if s.attached then
    ({ s with lMr := s.mrraw.extractLsb' 0 14, lTgt := cfgTarget s.cfga0 } : State).start .mLmr
  else s.finish .error .none

/-- `SETMR` (R106). -/
def execSetmr (s : State) : Host.Outcome State Fault Refusal :=
  .next (s.dispatch 3 State.acceptSetmr)

/-- SENDCMD of the reserved mode: refused with `RESERVED_ENC`, nothing sent (R79, R108). -/
def State.refuseReservedMode (s : State) : State := s.finish .invalidParameter .reservedEnc

/-- The acceptance of SENDCMD (R108). -/
def State.acceptSendcmd (s : State) : State :=
  if s.attached then
    if scmdMode s.scmd = 7 then s.refuseReservedMode
    else ({ s with lScmd := s.scmd.extractLsb' 0 23 } : State).start .sCmd
  else s.finish .error .none

/-- `SENDCMD` (R108). -/
def execSendcmd (s : State) : Host.Outcome State Fault Refusal :=
  .next (s.dispatch 4 State.acceptSendcmd)

/-! The INIT states with no command. -/

/-- One clock edge in `I_DLY` (R88). -/
def State.stepDly (s : State) : State :=
  if s.pins.tick then
    if s.dcnt = s.params.powerupDelayTicks then s.enter .iPall else { s with dcnt := s.dcnt + 1 }
  else s

/-- The clock edge in `I_RDCAS`: reads the controller's CAS and builds the mode register (R91). -/
def State.stepRdcas (s : State) : State :=
  let m := casCtlToMr (casField s.params.casLsb s.ctlreg)
  ({ s with mrcas := m, lMr := mrBuild s.lCfg0 m } : State).record (.ctlRead s.ctlreg) |>.enter .iLmr

/-- The clock edge in `I_RECON`: reads the controller's CAS again and, where it differs from the mode register's, starts the
write that patches it (R93); the write is on the port in the next cycle (R50, R59). -/
def State.stepRecon (s : State) : State :=
  let e := casMrToCtl s.mrcas
  let v := patchCas s.params.casLsb e s.ctlreg
  if casField s.params.casLsb s.ctlreg = e then (s.record (.ctlRead s.ctlreg)).enter .iRtr
  else
    ({ s with ctlOut := some v, result := { s.result with patched := true } } : State).record (.ctlRead s.ctlreg)
      |>.record (.ctlWrite v) |>.enter .iRtr

/-- What `I_RTR` does with its response (R94, R95). -/
def State.rtrResponse (ok : Bool) (s : State) : State :=
  if ok then
    ({ s with cfga0 := initCfga0 s.lCfg0 s.mrcas, cfga1 := s.lCfg1, attached := true } : State).finish .ok .none
  else s.initFail 7

/-- One clock edge in `I_RTR`: `CtlRefresh(L_CFG1)`, with the handshake of a command state (R49, R53, R94). -/
def State.stepRtr (s : State) : State :=
  match s.cphase with
  | .enter => { s with cphase := .wait }
  | .wait => if s.pins.rtrDone then (s.record (.rtr s.lCfg1 s.pins.rtrOk)).rtrResponse s.pins.rtrOk else s

end Sys2Proof.Machine
end

