-- ==== Sys2Proof/Machine/Port.lean ====
section
/-! DEFINITION. The controller commands: what one clock edge does while the block holds the command on the port (R48, R53,
R79, R82). -/

namespace Sys2Proof.Machine

open Sys2Proof

/-- `PORT.NORMAL` (mode 0, R79). -/
def execPortNormal (t : BitVec 2) (n : BitVec 4) (m : BitVec 14) (s : State) : Host.Outcome State Fault Refusal :=
  .next (s.ctlCmd (packPort 0 t n m))

/-- `PORT.CLK_ENABLE` (mode 1, R79, R87). -/
def execPortClkEnable (t : BitVec 2) (n : BitVec 4) (m : BitVec 14) (s : State) : Host.Outcome State Fault Refusal :=
  .next (s.ctlCmd (packPort 1 t n m))

/-- `PORT.PALL` (mode 2, R79, R89). -/
def execPortPall (t : BitVec 2) (n : BitVec 4) (m : BitVec 14) (s : State) : Host.Outcome State Fault Refusal :=
  .next (s.ctlCmd (packPort 2 t n m))

/-- `PORT.AUTOREFRESH` (mode 3, R79, R90). -/
def execPortAutorefresh (t : BitVec 2) (n : BitVec 4) (m : BitVec 14) (s : State) : Host.Outcome State Fault Refusal :=
  .next (s.ctlCmd (packPort 3 t n m))

/-- `PORT.LOAD_MODE` (mode 4, R79, R92, R107). -/
def execPortLoadMode (t : BitVec 2) (n : BitVec 4) (m : BitVec 14) (s : State) : Host.Outcome State Fault Refusal :=
  .next (s.ctlCmd (packPort 4 t n m))

/-- `PORT.SELF_REFRESH` (mode 5, R79, R108). -/
def execPortSelfRefresh (t : BitVec 2) (n : BitVec 4) (m : BitVec 14) (s : State) : Host.Outcome State Fault Refusal :=
  .next (s.ctlCmd (packPort 5 t n m))

/-- `PORT.POWER_DOWN` (mode 6, R79, R105). -/
def execPortPowerDown (t : BitVec 2) (n : BitVec 4) (m : BitVec 14) (s : State) : Host.Outcome State Fault Refusal :=
  .next (s.ctlCmd (packPort 6 t n m))

/-- `PORT.RSVD` (mode 7): never sent; SENDCMD, the one operation that could hold it, is refused with `RESERVED_ENC` (R79, R108,
93_implementation_defined.md U9). The fields of the word have no effect. DEDUCED: no run reaches this, since the refusal comes
at acceptance (log entry 16). -/
def execPortRsvd (_t : BitVec 2) (_n : BitVec 4) (_m : BitVec 14) (s : State) : Host.Outcome State Fault Refusal :=
  .next (if s.fsm = .sCmd then s.refuseReservedMode else s)

end Sys2Proof.Machine
end

