-- ==== Sys2Proof/Machine/Validator.lean ====
section
/-! DEFINITION. The validator commands CHKRANGE, CHKACC.B, CHKACC.H, CHKACC.W, CALCREF and the reserved encodings
(R109 to R121). -/

namespace Sys2Proof.Machine

open Sys2Proof

/-- The check of CHKRANGE (R113). -/
def State.checkOffsetLen (s : State) : State :=
  let r := checkRange s.params.capacity s.offset.toNat s.len.toNat
  s.finish r.1 r.2

/-- `CHKRANGE` (R113). -/
def execChkrange (s : State) : Host.Outcome State Fault Refusal :=
  .next (s.dispatch 5 State.checkOffsetLen)

/-- The check of CHKACC with element size `e` (R114). -/
def State.checkAccess (e : Nat) (s : State) : State :=
  if s.buf = 0 then s.finish .invalidParameter .nullBuffer
  else
    let size := s.len.toNat * e
    let r := checkRange s.params.capacity s.offset.toNat size
    if r.1 = .ok then
      ({ s with
        result := { s.result with aligned := alignedTo s.buf.toNat (s.params.baseAddr + s.offset.toNat) e }
        resval := BitVec.ofNat 32 size } : State).finish r.1 r.2
    else s.finish r.1 r.2

/-- `CHKACC.B` (R114, element size 1 by R67). -/
def execChkaccB (s : State) : Host.Outcome State Fault Refusal :=
  .next (s.dispatch 6 (State.checkAccess 1))

/-- `CHKACC.H` (R114, element size 2 by R67). -/
def execChkaccH (s : State) : Host.Outcome State Fault Refusal :=
  .next (s.dispatch 6 (State.checkAccess 2))

/-- `CHKACC.W` (R114, element size 4 by R67). -/
def execChkaccW (s : State) : Host.Outcome State Fault Refusal :=
  .next (s.dispatch 6 (State.checkAccess 4))

/-- The computation of CALCREF (R118, R119). -/
def State.calcRefresh (s : State) : State :=
  let cnt := refreshCount s.params s.clkmhz.toNat s.refms.toNat
  if s.clkmhz = 0 then s.finish .invalidParameter .arith
  else if 0xFFFFFFFF < cnt then s.finish .invalidParameter .arith
  else ({ s with resval := BitVec.ofNat 32 cnt } : State).finish .ok .none

/-- `CALCREF` (R118). -/
def execCalcref (s : State) : Host.Outcome State Fault Refusal :=
  .next (s.dispatch 7 State.calcRefresh)

/-- A reserved encoding's one effect (R120). -/
def State.reservedEncoding (s : State) : State := s.finish .invalidParameter .reservedEnc

/-- `OP = 6` with `WIDTH = 3` (R120). -/
def execRsvdChkacc (s : State) : Host.Outcome State Fault Refusal :=
  .next (s.dispatch 6 State.reservedEncoding)

/-- A reserved `OP` (R120). -/
def execRsvd (op : BitVec 4) (s : State) : Host.Outcome State Fault Refusal :=
  .next (s.dispatch op State.reservedEncoding)

end Sys2Proof.Machine
end

