-- ==== Sys2Proof/Machine/Dispatch.lean ====
section
/-! DEFINITION. The meaning of each instruction: one arm per constructor. -/

namespace Sys2Proof.Machine

open Sys2Proof

/-- What an instruction does: a host command at the clock edge that writes it to `CMD`; a controller command at a clock edge
at which the block holds it on the command port. -/
def exec (i : Instr) (s : State) : Host.Outcome State Fault Refusal :=
  match i with
  | .nop => Sys2Proof.Machine.execNop s
  | .init => Sys2Proof.Machine.execInit s
  | .deinit => Sys2Proof.Machine.execDeinit s
  | .setmr => Sys2Proof.Machine.execSetmr s
  | .sendcmd => Sys2Proof.Machine.execSendcmd s
  | .chkrange => Sys2Proof.Machine.execChkrange s
  | .chkaccB => Sys2Proof.Machine.execChkaccB s
  | .chkaccH => Sys2Proof.Machine.execChkaccH s
  | .chkaccW => Sys2Proof.Machine.execChkaccW s
  | .rsvdChkacc => Sys2Proof.Machine.execRsvdChkacc s
  | .calcref => Sys2Proof.Machine.execCalcref s
  | .rsvd op => Sys2Proof.Machine.execRsvd op s
  | .portNormal t n m => Sys2Proof.Machine.execPortNormal t n m s
  | .portClkEnable t n m => Sys2Proof.Machine.execPortClkEnable t n m s
  | .portPall t n m => Sys2Proof.Machine.execPortPall t n m s
  | .portAutorefresh t n m => Sys2Proof.Machine.execPortAutorefresh t n m s
  | .portLoadMode t n m => Sys2Proof.Machine.execPortLoadMode t n m s
  | .portSelfRefresh t n m => Sys2Proof.Machine.execPortSelfRefresh t n m s
  | .portPowerDown t n m => Sys2Proof.Machine.execPortPowerDown t n m s
  | .portRsvd t n m => Sys2Proof.Machine.execPortRsvd t n m s

end Sys2Proof.Machine
end

