-- ==== Sys2Proof/Machine/ClockEdge.lean ====
section
/-! DEFINITION. One rising clock edge: the host's access, the block's own step, the controller's register, and reset
(R21, R45, R50, R52, R139). -/

namespace Sys2Proof.Machine

open Sys2Proof

/-! The host's part. -/

/-- What a host access of the cycle does. An 8- or 16-bit access and a misaligned one are refused (R46); a write to `CMD` runs
the instruction it decodes to (R23, R68). -/
def State.hostPhase (s : State) : Host.Outcome State Fault Refusal :=
  match s.pins.host with
  | none => .next s
  | some (.read w off) =>
    if w ≠ .word then .refused .subWordAccess
    else if off % 4 ≠ 0 then .refused .misalignedAccess
    else .next (s.hostRead off)
  | some (.write w off v) =>
    if w ≠ .word then .refused .subWordAccess
    else if off % 4 ≠ 0 then .refused .misalignedAccess
    else if off = 0 then exec (decodeCmd v) s
    else .next (s.hostWrite off v)

/-! The block's part. -/

/-- The block's step in the state `f` it was in before the edge: in a command state it runs the controller command it holds
(R82); in `IDLE` it does nothing. -/
def State.blockPhase (f : Fsm) (s : State) : Host.Outcome State Fault Refusal :=
  match f with
  | .idle => .next s
  | .iDly => .next s.stepDly
  | .iRdcas => .next s.stepRdcas
  | .iRecon => .next s.stepRecon
  | .iRtr => .next s.stepRtr
  | .iCke | .iPall | .iAref | .iLmr | .dPd | .mLmr | .sCmd =>
    match s.portWord with
    | some w => exec (decodePort w) s
    | none => .next s

/-! The controller's part. -/

/-- `CTLREG` at the edge: it takes what the block's `ctl_we` cycle or another agent writes (R50). Where both write at one edge
the spec gives no winner, and it takes a free word (U14; log entry 6). From another agent's write on, U14 gives the register
any value; the model stores the word that agent writes, itself an arbitrary input, and keeps it until the next write. DESIGN
CHOICE, unsafe; log entry 22. -/
def State.ctlEdge (out other : Option Word) (s : State) : State :=
  match out, other with
  | none, none => s
  | some v, none => { s with ctlreg := v }
  | none, some v => { s with ctlreg := v }
  | some _, some _ => { s with ctlreg := Config.freeWord s.draws, draws := s.draws + 1 }

/-! The whole edge. -/

/-- The cycle is over: its inputs are gone. -/
def State.advance (s : State) : State := { s with inputs := s.inputs.tail }

/-- The registered outputs `ctl_we` and `ctl_wdata` last one cycle (R50). -/
def State.dropCtlOut (s : State) : State := { s with ctlOut := none }

/-- What follows the host's part of an edge at which the block was in state `s.fsm` and drove `s.ctlOut`. -/
def State.afterHost (s : State) : Host.Outcome State Fault Refusal → Host.Outcome State Fault Refusal
  | .next s1 =>
    match s1.blockPhase s.fsm with
    | .next s2 => .next (s2.ctlEdge s.ctlOut s.pins.ctlOther).advance
    | .fault r => .fault r
    | .refused r => .refused r
  | .fault r => .fault r
  | .refused r => .refused r

/-- A rising edge with `rst = 0`. Every part reads the state before the edge: the host's part writes nothing the block's part
reads while the block is busy, and a command accepted at this edge takes its first block step at the next one (R52, R144). -/
def State.clockEdge (s : State) : Host.Outcome State Fault Refusal :=
  s.afterHost s.dropCtlOut.hostPhase

/-- A rising edge with `rst = 1`: every piece of block state takes its reset value (R139, R140). The parameters, the port
events so far and the inputs to come are not the block's. `CTLREG` is not reset (R41); after a reset that stops an operation
the controller's state is unknown (R141, U4), so it takes a free word. -/
def State.resetEdge (other : Option Word) (s : State) : State :=
  let c := s.ctlEdge s.ctlOut other
  let k : State :=
    { State.reset with params := s.params, ctlreg := c.ctlreg, draws := c.draws, inputs := s.inputs.tail, trace := s.trace }
  if s.fsm = .idle then k else { k with ctlreg := Config.freeWord c.draws, draws := c.draws + 1 }

/-- The next clock edge. -/
def State.edge (s : State) : Host.Outcome State Fault Refusal :=
  match s.inputs with
  | .reset other :: _ => .next (s.resetEdge other)
  | .clock _ :: _ => s.clockEdge
  | [] => s.clockEdge

/-! Placing an instruction. -/

/-- A host write of the command word `w` in the very next cycle. -/
def State.placeCmd (w : Word) (s : State) : State :=
  { s with inputs := .clock { host := some (.write .word 0 w) } :: s.inputs }

/-- The block as SENDCMD's acceptance leaves it with the port word `w` (R108), one cycle on, and the controller's answer in the
very next cycle. -/
def State.placePort (w : PortWord) (s : State) : State :=
  { s with
    attached := true
    lScmd := w
    result := { resultOfOp 4 with code := .busy }
    fsm := .sCmd
    cphase := .wait
    inputs := .clock { cmdDone := true, cmdOk := true } :: s.inputs }

/-- `withFetchWord`, for the two formats of the opcode table. -/
def State.placeWord (nbits w : Nat) (s : State) : State :=
  match formatOfBits nbits with
  | .cmd32 => s.placeCmd (BitVec.ofNat 32 w)
  | .port23 => s.placePort (BitVec.ofNat 23 w)

end Sys2Proof.Machine
end

