-- ==== Sys2Proof/Machine/Step.lean ====
section
/-! DEFINITION. One step of the machine: one rising edge of `clk` (R52). -/

namespace Sys2Proof.Machine

open Sys2Proof

/-- One rising edge of `clk`, with the inputs at the head of `s.inputs`. -/
def step (s : State) : Host.Outcome State Fault Refusal := s.edge

/-- `s` with the instruction word `w` placed so that the next step runs it: a command word as the host write to `CMD` of the
next cycle; a port word as the command the block holds in `S_CMD`, answered `Ok` in the next cycle (log entry 17). -/
def State.withFetchWord (s : State) (nbits w : Nat) : State := s.placeWord nbits w

end Sys2Proof.Machine
end

