-- ==== Sys2Proof/Machine/Outputs.lean ====
section
/-! DEFINITION. The block's output signals, functions of the state (20_memory.md R48 to R50, R53). -/

namespace Sys2Proof.Machine

open Sys2Proof

/-- `cmd_req`: 1 in a command state from the cycle after `ENTER` on (R48, R53). -/
def State.cmdReq (s : State) : Bool := s.fsm.onCmdPort && s.cphase == .wait

/-- The fields driven beside `cmd_req = 1` (R48). -/
structure CmdFields where
  mode : BitVec 3
  target : BitVec 2
  nrfsM1 : BitVec 4
  mrd : BitVec 14
  timeout : Word
deriving DecidableEq, Repr

/-- The command port's fields while `cmd_req = 1`; the spec gives them no value while `cmd_req = 0` (R48). -/
def State.cmdFields (s : State) : Option CmdFields :=
  if s.cmdReq then
    s.portWord.map fun w =>
      { mode := portMode w, target := portTarget w, nrfsM1 := portNrfsM1 w, mrd := portMrd w,
        timeout := s.params.cmdTimeout }
  else none

/-- `rtr_req` (R49, R53). -/
def State.rtrReq (s : State) : Bool := s.fsm == .iRtr && s.cphase == .wait

/-- `rtr_value` while `rtr_req = 1` (R49, R94). -/
def State.rtrValue (s : State) : Option Word := if s.rtrReq then some s.lCfg1 else none

/-- `ctl_we` (R50). -/
def State.ctlWe (s : State) : Bool := s.ctlOut.isSome

/-- `ctl_wdata` while `ctl_we = 1` (R50). -/
def State.ctlWdata (s : State) : Option Word := s.ctlOut

/-- The bus address of a register offset (R22, R60). -/
def State.busAddress (s : State) (off : Nat) : Nat := s.params.regBase + off

end Sys2Proof.Machine
end

