-- ==== Sys2Proof/Safety.lean ====
section
/-! DEFINITION. What a safe run is: the invariants of a running block, in the terms the statements use. -/

namespace Sys2Proof.Machine

open Sys2Proof

/-- The control invariant: the six points of R43, and what makes them inductive. Point 1 (`BUSY` is `fsm != IDLE`) holds by
the definition of `State.busy`, and point 6 by the type `Fsm`. -/
structure ControlInv (s : State) : Prop where
  /-- R43.2. -/
  detached_in_init : s.fsm.inInit = true → s.attached = false
  /-- DEINIT, SETMR and SENDCMD leave `IDLE` only while attached (R104, R106, R108). -/
  attached_in_command : s.fsm = .dPd ∨ s.fsm = .mLmr ∨ s.fsm = .sCmd → s.attached = true
  /-- R43.3. -/
  config_cleared : s.attached = false → s.fsm = .idle → s.cfga0 = 0 ∧ s.cfga1 = 0
  /-- R43.4. -/
  busy_code : s.fsm ≠ .idle → s.result.code = .busy
  /-- R43.5. -/
  idle_code : s.fsm = .idle → s.result.code ≠ .busy
  /-- `dcnt` ranges over `0 .. P_POWERUP_DELAY_TICKS` (R39). -/
  dcnt_le : s.dcnt ≤ s.params.powerupDelayTicks
  /-- SENDCMD never holds the reserved mode (R79, R108). -/
  sendable : s.fsm = .sCmd → portMode s.lScmd ≠ 7
  /-- `ctl_we` is driven only in the first cycle of `I_RTR` (R50, R93). -/
  ctl_write : s.ctlOut.isSome = true → s.fsm = .iRtr ∧ s.cphase = .enter
  /-- From `I_LMR` on, the latches hold the mode register that step 5a built (R38, R91). -/
  mode_register : s.fsm = .iLmr ∨ s.fsm = .iRecon ∨ s.fsm = .iRtr →
    (s.mrcas = 0b010 ∨ s.mrcas = 0b011) ∧ s.lMr = mrBuild s.lCfg0 s.mrcas

/-- What the fields of `RESULT` may hold together (R27, R122, R123, R124). -/
structure ResultInv (s : State) : Prop where
  /-- R124. -/
  no_timeout : s.result.code ≠ .timeout
  /-- `REASON` is 0 for every code but `InvalidParameter`, and names a case for that one (R123). -/
  reason_iff : s.result.reason = .none ↔ s.result.code ≠ .invalidParameter
  /-- `ALIGNED` belongs to a CHKACC that passed (R27, R114). -/
  aligned_chkacc : s.result.aligned = true → s.result.op = 6 ∧ s.result.code = .ok
  /-- `STEP` belongs to an INIT that failed, and names one of its command steps (R27, R95). -/
  step_init : s.result.step = 0 ∨
    (s.result.op = 1 ∧ s.result.code = .error ∧
      (s.result.step = 1 ∨ s.result.step = 3 ∨ s.result.step = 4 ∨ s.result.step = 5 ∨ s.result.step = 7))
  /-- `PATCHED` belongs to an INIT (R27). -/
  patched_init : s.result.patched = true → s.result.op = 1
  /-- While an operation runs, `OP` names it (R27, R37). -/
  op_running : (s.fsm.inInit = true → s.result.op = 1) ∧ (s.fsm = .dPd → s.result.op = 2) ∧
    (s.fsm = .mLmr → s.result.op = 3) ∧ (s.fsm = .sCmd → s.result.op = 4)

/-- The reserved bits of the stored registers read 0 (R29, R31, R32, R34). -/
structure ReservedInv (s : State) : Prop where
  cfg0 : s.cfg0 &&& cfg0Mask = s.cfg0
  mrraw : s.mrraw &&& mrrawMask = s.mrraw
  scmd : s.scmd &&& scmdMask = s.scmd
  cfga0 : s.cfga0 &&& cfga0Mask = s.cfga0

/-- `n` clock edges, stopping at the first that gives no next state. -/
def runSteps : Nat → State → Host.Outcome State Fault Refusal
  | 0, s => .next s
  | n + 1, s =>
    match step s with
    | .next t => runSteps n t
    | .fault r => .fault r
    | .refused r => .refused r

/-- The host access is one the spec gives a meaning (R46). -/
def HostAccess.admitted : HostAccess → Bool
  | .read w off => w == .word && off % 4 == 0
  | .write w off _ => w == .word && off % 4 == 0

/-- A clock edge, with `rst = 0`, at which no agent but the block and its tick source acts: no host access, no answer, no
other writer of `CTLREG`. -/
def Edge.silent : Edge → Bool
  | .clock p => p.host == none && !p.cmdDone && !p.rtrDone && p.ctlOther == none
  | .reset _ => false

/-- Whether a clock edge carries a tick. -/
def Edge.ticks : Edge → Bool
  | .clock p => p.tick
  | .reset _ => false

/-- A clock edge, with `rst = 0`, at which the controller answers neither port; the host may make any access that the spec
admits (R46), ticks may come, and another agent may write `CTLREG`. -/
def Edge.unanswered : Edge → Bool
  | .clock p => !p.cmdDone && !p.rtrDone && (p.host.map HostAccess.admitted).getD true
  | .reset _ => false

/-- A clock edge at which the controller answers `Ok` to a command, the host makes no access and no other agent writes
`CTLREG`. -/
def Edge.answersCmd : Edge → Bool
  | .clock p => p.host == none && p.cmdDone && p.cmdOk && p.ctlOther == none
  | .reset _ => false

/-- The same for a refresh-timer request. -/
def Edge.answersRtr : Edge → Bool
  | .clock p => p.host == none && p.rtrDone && p.rtrOk && p.ctlOther == none
  | .reset _ => false

/-- The edges of a transaction: any number of silent ones, the `ENTER` cycle first, and then the answer (R53). -/
def IsTransaction (answer : Edge → Bool) (es : List Edge) : Prop :=
  ∃ ws last, es = ws ++ [last] ∧ ws ≠ [] ∧ ws.all Edge.silent = true ∧ answer last = true

/-- The edges of `I_DLY` with a delay of `n` ticks: silent ones, of which `n` carry a tick, and then one with a tick (R88). -/
def IsDelay (n : Nat) (es : List Edge) : Prop :=
  ∃ ws last, es = ws ++ [last] ∧ ws.all Edge.silent = true ∧ last.silent = true ∧ ws.countP Edge.ticks = n ∧
    last.ticks = true

/-- The edges of a whole INIT from the cycle after its acceptance, state by state. -/
structure InitSchedule where
  cke : List Edge
  delay : List Edge
  pall : List Edge
  aref : List Edge
  rdcas : Edge
  lmr : List Edge
  recon : Edge
  rtr : List Edge

/-- All the edges of the schedule, in order. -/
def InitSchedule.edges (c : InitSchedule) : List Edge :=
  c.cke ++ c.delay ++ c.pall ++ c.aref ++ [c.rdcas] ++ c.lmr ++ [c.recon] ++ c.rtr

/-- A schedule on which INIT succeeds undisturbed, with a delay of `n` ticks: each request is answered `Ok` after any wait, and
no agent but the controller and the tick source acts (R97). -/
structure InitSchedule.Succeeds (n : Nat) (c : InitSchedule) : Prop where
  cke : IsTransaction Edge.answersCmd c.cke
  delay : IsDelay n c.delay
  pall : IsTransaction Edge.answersCmd c.pall
  aref : IsTransaction Edge.answersCmd c.aref
  rdcas : c.rdcas.silent = true
  lmr : IsTransaction Edge.answersCmd c.lmr
  recon : c.recon.silent = true
  rtr : IsTransaction Edge.answersRtr c.rtr

end Sys2Proof.Machine
end

