-- ==== Sys2Proof/Certificates/Slice0/Obligations.lean ====
section
/-! DEFINITION. The statements about the model, each from the rules of the spec it cites. -/

open Sys2Proof Sys2Proof.Machine

/-! Decoding and encoding. -/

/-- Decoding the bytes of any well-formed instruction gives that instruction, with every operand at every value. -/
def Obligations.DecodeOfEncode : Prop :=
  ∀ i : Instr, i.wf = true → decode i.format (encode i) = .ok i

/-- Words written out from the encoding tables decode to what they stand for: a word of each family (R66, R67, R71, R79, and
the port words of R82 and R106). -/
def Obligations.WrittenOutWordsDecode : Prop :=
  decode .cmd32 [0x00, 0x00, 0x00, 0x00] = .ok .nop ∧
  decode .cmd32 [0x01, 0x00, 0x00, 0x00] = .ok .init ∧
  decode .cmd32 [0x26, 0xFF, 0xFF, 0xFF] = .ok .chkaccW ∧
  decode .cmd32 [0x36, 0x00, 0x00, 0x00] = .ok .rsvdChkacc ∧
  decode .cmd32 [0x0F, 0x00, 0x00, 0x00] = .ok (.rsvd 0xF) ∧
  decode .port23 [0xEB, 0x00, 0x00] = .ok (.portAutorefresh 1 7 0) ∧
  decode .port23 [0x0C, 0x40, 0x04] = .ok (.portLoadMode 1 0 0x220)

/-- R65, R69: bits 31:6 of a command word never matter, and `WIDTH` matters for `OP = 6` only. -/
def Obligations.IgnoredCommandBits : Prop :=
  ∀ v w : Word, cmdOp v = cmdOp w → (cmdOp w = 6 → cmdWidth v = cmdWidth w) → decodeCmd v = decodeCmd w

/-! How a step runs an instruction. -/

/-- A step runs the decoded instruction. That one clock edge is the host's part, then the block's part in the state it was in,
then the controller's register, then the passing of the cycle, is the model's choice (log entry 1): R21 gives each agent steps
of its own, in any order, and R52 one block step for each edge. The host's part of a write to `CMD` is `exec` of the
instruction the word decodes to (R23, R68); the block's part in a command state is `exec` of the controller command it holds
(R53, R82), and in `IDLE` it is nothing. -/
def Obligations.StepRunsDecodedInstruction : Prop :=
  (∀ (s t u : State) (p : Pins) (rest : List Edge),
    s.inputs = .clock p :: rest → s.dropCtlOut.hostPhase = .next t → t.blockPhase s.fsm = .next u →
    step s = .next (u.ctlEdge s.ctlOut p.ctlOther).advance) ∧
  (∀ (s : State) (p : Pins) (rest : List Edge) (v : Word),
    s.inputs = .clock p :: rest → p.host = some (.write .word 0 v) → s.fsm = .idle →
    ∀ t, exec (decodeCmd v) s.dropCtlOut = .next t →
      step s = .next (t.ctlEdge s.ctlOut p.ctlOther).advance) ∧
  (∀ (s : State) (p : Pins) (rest : List Edge) (w : PortWord),
    s.inputs = .clock p :: rest → p.host = none → s.fsm.onCmdPort = true → s.portWord = some w →
    ∀ t, exec (decodePort w) s.dropCtlOut = .next t →
      step s = .next (t.ctlEdge s.ctlOut p.ctlOther).advance)

/-- R46, R132: an access of 8 or 16 bits, or at an offset that is not a multiple of 4, is refused by name; no other step is
refused, and no step faults. -/
def Obligations.StepStopsOnlyOnRefusedAccess : Prop :=
  (∀ (s : State) (p : Pins) (rest : List Edge) (w : AccessWidth) (off : Nat) (v : Word),
    s.inputs = .clock p :: rest → (p.host = some (.read w off) ∨ p.host = some (.write w off v)) →
    (w ≠ .word → step s = .refused .subWordAccess) ∧
    (w = .word → off % 4 ≠ 0 → step s = .refused .misalignedAccess)) ∧
  (∀ s : State, (∀ r, step s ≠ .fault r) ∧
    ((∃ r, step s = .refused r) ↔
      ∃ p rest a, s.inputs = .clock p :: rest ∧ p.host = some a ∧ a.admitted = false))

/-! The commands. -/

/-- R103: NOP changes nothing while idle and is rejected while busy; bits 31:4 of its word are ignored. -/
def Obligations.NopResult : Prop :=
  (∀ s : State, s.fsm = .idle → exec .nop s = .next s) ∧
  (∀ s : State, s.fsm ≠ .idle → exec .nop s = .next { s with rejected := true }) ∧
  (∀ w : Word, cmdOp w = 0 → decodeCmd w = .nop)

/-- R126: a `CMD` write while busy sets `REJECTED` and changes nothing else; `REJECTED` stays until the host writes `STATUS`
with bit 2 set or until reset; and only such a write sets it. -/
def Obligations.BusyCommandRejected : Prop :=
  (∀ (s : State) (i : Instr), i.format = .cmd32 → s.fsm ≠ .idle → exec i s = .next { s with rejected := true }) ∧
  (∀ s t : State, step s = .next t → s.rejected = true → t.rejected = false →
    (∃ o rest, s.inputs = .reset o :: rest) ∨ (∃ v, s.pins.host = some (.write .word 4 v) ∧ v.getLsbD 2 = true)) ∧
  (∀ s t : State, step s = .next t → s.rejected = false → t.rejected = true →
    s.fsm ≠ .idle ∧ ∃ v, s.pins.host = some (.write .word 0 v))

/-- R85: INIT with `VALID = 0` ends with `NULL_CONFIG`; with `VALID = 1` it latches its operands, clears `ATTACHED` and starts.
Everything else is unchanged. A word with `OP = 1` is INIT. -/
def Obligations.InitAcceptance : Prop :=
  (∀ w : Word, cmdOp w = 1 → decodeCmd w = .init) ∧
  ∀ s : State, s.fsm = .idle →
    (s.cfg0.getLsbD 31 = false →
      exec .init s = .next { s with
        result := { code := .invalidParameter, aligned := false, reason := .nullConfig, step := 0, op := 1, patched := false }
        resval := 0 }) ∧
    (s.cfg0.getLsbD 31 = true →
      exec .init s = .next { s with
        lCfg0 := s.cfg0.extractLsb' 0 14
        lCfg1 := s.cfg1
        attached := false
        result := { code := .busy, aligned := false, reason := .none, step := 0, op := 1, patched := false }
        resval := 0
        fsm := .iCke
        cphase := .enter })

/-- R104: DEINIT ends with `Ok` at once when detached, and otherwise latches the active target and starts. A word with `OP = 2`
is DEINIT. -/
def Obligations.DeinitAcceptance : Prop :=
  (∀ w : Word, cmdOp w = 2 → decodeCmd w = .deinit) ∧
  ∀ s : State, s.fsm = .idle →
    (s.attached = false →
      exec .deinit s = .next { s with
        result := { code := .ok, aligned := false, reason := .none, step := 0, op := 2, patched := false }
        resval := 0 }) ∧
    (s.attached = true →
      exec .deinit s = .next { s with
        lTgt := s.cfga0.extractLsb' 12 2
        result := { code := .busy, aligned := false, reason := .none, step := 0, op := 2, patched := false }
        resval := 0
        fsm := .dPd
        cphase := .enter })

/-- R106: SETMR ends with `Error` when detached, and otherwise latches the raw value and the active target and starts. A word
with `OP = 3` is SETMR. -/
def Obligations.SetmrAcceptance : Prop :=
  (∀ w : Word, cmdOp w = 3 → decodeCmd w = .setmr) ∧
  ∀ s : State, s.fsm = .idle →
    (s.attached = false →
      exec .setmr s = .next { s with
        result := { code := .error, aligned := false, reason := .none, step := 0, op := 3, patched := false }
        resval := 0 }) ∧
    (s.attached = true →
      exec .setmr s = .next { s with
        lMr := s.mrraw.extractLsb' 0 14
        lTgt := s.cfga0.extractLsb' 12 2
        result := { code := .busy, aligned := false, reason := .none, step := 0, op := 3, patched := false }
        resval := 0
        fsm := .mLmr
        cphase := .enter })

/-- R108, R129.2: SENDCMD ends with `Error` when detached, else with `RESERVED_ENC` for mode 7, and otherwise latches the raw
command and starts. A word with `OP = 4` is SENDCMD. -/
def Obligations.SendcmdAcceptance : Prop :=
  (∀ w : Word, cmdOp w = 4 → decodeCmd w = .sendcmd) ∧
  ∀ s : State, s.fsm = .idle →
    (s.attached = false →
      exec .sendcmd s = .next { s with
        result := { code := .error, aligned := false, reason := .none, step := 0, op := 4, patched := false }
        resval := 0 }) ∧
    (s.attached = true → s.scmd.extractLsb' 0 3 = (7 : BitVec 3) →
      exec .sendcmd s = .next { s with
        result :=
          { code := .invalidParameter, aligned := false, reason := .reservedEnc, step := 0, op := 4, patched := false }
        resval := 0 }) ∧
    (s.attached = true → s.scmd.extractLsb' 0 3 ≠ (7 : BitVec 3) →
      exec .sendcmd s = .next { s with
        lScmd := s.scmd.extractLsb' 0 23
        result := { code := .busy, aligned := false, reason := .none, step := 0, op := 4, patched := false }
        resval := 0
        fsm := .sCmd
        cphase := .enter })

/-! The validator. -/

/-- R111, R112: the range check accepts exactly the non-empty ranges inside the capacity, over the naturals, and gives the
first failing condition as the reason. -/
def Obligations.RangeCheckMeaning : Prop :=
  ∀ c o n : Nat,
    (checkRange c o n = (.ok, .none) ↔ 0 < n ∧ o + n ≤ c) ∧
    (checkRange c o n = (.invalidParameter, .offsetRange) ↔ c ≤ o) ∧
    (checkRange c o n = (.invalidParameter, .zeroSize) ↔ o < c ∧ n = 0) ∧
    (checkRange c o n = (.invalidParameter, .endRange) ↔ o < c ∧ n ≠ 0 ∧ c < o + n)

/-- R113: CHKRANGE reports the range check of `OFFSET` and `LEN`; `RESVAL` is 0; nothing else changes. A word with `OP = 5` is
CHKRANGE. -/
def Obligations.ChkrangeResult : Prop :=
  (∀ w : Word, cmdOp w = 5 → decodeCmd w = .chkrange) ∧
  ∀ (s : State) (code : StatusCode) (reason : Reason), s.fsm = .idle →
    checkRange s.params.capacity s.offset.toNat s.len.toNat = (code, reason) →
      exec .chkrange s = .next { s with
        result := { code := code, aligned := false, reason := reason, step := 0, op := 5, patched := false }
        resval := 0 }

/-- R114, R115: CHKACC.B, .H and .W with element size 1, 2 and 4: the null test first, then the range check of the exact byte
size; on `Ok`, `ALIGNED` and the size in `RESVAL`; nothing else changes. A word with `OP = 6` and `WIDTH` 0, 1 or 2 is the
first, second or third of them. -/
def Obligations.ChkaccResult : Prop :=
  (∀ w : Word, cmdOp w = 6 →
    (cmdWidth w = 0 → decodeCmd w = .chkaccB) ∧ (cmdWidth w = 1 → decodeCmd w = .chkaccH) ∧
    (cmdWidth w = 2 → decodeCmd w = .chkaccW)) ∧
  ∀ (s : State) (i : Instr) (e : Nat), s.fsm = .idle →
    (i, e) ∈ [(Instr.chkaccB, 1), (Instr.chkaccH, 2), (Instr.chkaccW, 4)] →
    (s.buf = 0 →
      exec i s = .next { s with
        result := { code := .invalidParameter, aligned := false, reason := .nullBuffer, step := 0, op := 6, patched := false }
        resval := 0 }) ∧
    (s.buf ≠ 0 → ∀ reason, checkRange s.params.capacity s.offset.toNat (s.len.toNat * e) = (.invalidParameter, reason) →
      exec i s = .next { s with
        result := { code := .invalidParameter, aligned := false, reason := reason, step := 0, op := 6, patched := false }
        resval := 0 }) ∧
    (s.buf ≠ 0 → checkRange s.params.capacity s.offset.toNat (s.len.toNat * e) = (.ok, .none) →
      exec i s = .next { s with
        result :=
          { code := .ok
            aligned := decide (s.buf.toNat % e = 0 ∧ (s.params.baseAddr + s.offset.toNat) % e = 0)
            reason := .none, step := 0, op := 6, patched := false }
        resval := BitVec.ofNat 32 (s.len.toNat * e) })

/-- R115: the alignment test, its DRAM side depending on `OFFSET` alone, and always 1 for one byte; and the remark of R114 that
on `Ok` the byte size fits `RESVAL`. -/
def Obligations.ChkaccSizeFitsAndBaseIsNeutral : Prop :=
  (∀ a d e : Nat, alignedTo a d e = true ↔ a % e = 0 ∧ d % e = 0) ∧
  ∀ (p : Params) (o n e : Nat), e = 1 ∨ e = 2 ∨ e = 4 →
    (checkRange p.capacity o (n * e) = (.ok, .none) → (BitVec.ofNat 32 (n * e) : Word).toNat = n * e) ∧
    (∀ a, alignedTo a (p.baseAddr + o) e = alignedTo a o e) ∧
    (e = 1 → ∀ a, alignedTo a (p.baseAddr + o) e = true)

/-- R118, with the default rounding: CALCREF computes the exact quotient, rounds halves up, raises an odd count by one, and
reports `ARITH` for a zero clock or a count above 32 bits; nothing else changes. A word with `OP = 7` is CALCREF. -/
def Obligations.CalcrefResult : Prop :=
  (∀ w : Word, cmdOp w = 7 → decodeCmd w = .calcref) ∧
  ∀ (s : State) (raw cnt : Nat), s.fsm = .idle → s.params.roundTies = .up →
    raw = (2 * (s.refms.toNat * 1000 * s.clkmhz.toNat) + s.params.rowCount) / (2 * s.params.rowCount) →
    cnt = raw + raw % 2 →
    (s.clkmhz = 0 ∨ 0xFFFFFFFF < cnt →
      exec .calcref s = .next { s with
        result := { code := .invalidParameter, aligned := false, reason := .arith, step := 0, op := 7, patched := false }
        resval := 0 }) ∧
    (s.clkmhz ≠ 0 → cnt ≤ 0xFFFFFFFF →
      exec .calcref s = .next { s with
        result := { code := .ok, aligned := false, reason := .none, step := 0, op := 7, patched := false }
        resval := BitVec.ofNat 32 cnt })

/-- R119: whatever the tie rule, the raw count is a nearest natural to the exact quotient `n / r`; on a tie `up` takes the
upper, `down` the lower and `even` the even one; so the three differ on ties only. -/
def Obligations.RoundingIsNearest : Prop :=
  ∀ (ties : RoundTies) (n r : Nat), 0 < r →
    2 * (roundQuot ties n r * r) ≤ 2 * n + r ∧ 2 * n ≤ 2 * (roundQuot ties n r * r) + r ∧
    (2 * (n % r) = r →
      roundQuot .up n r = n / r + 1 ∧ roundQuot .down n r = n / r ∧ roundQuot .even n r % 2 = 0)

/-- R149, R118, R119: under every tie rule CALCREF runs to a next state with an even count in `RESVAL`, or 0 when it reports
`ARITH`, and writes nothing but `RESULT` and `RESVAL`. -/
def Obligations.CalcrefCountIsEven : Prop :=
  ∀ s : State, s.fsm = .idle → ∃ r v, exec .calcref s = .next { s with result := r, resval := v } ∧
    v.toNat % 2 = 0 ∧ (r.code = .ok ∨ (r.code = .invalidParameter ∧ r.reason = .arith ∧ v = 0)) ∧
    (r.code = .ok → v.toNat = refreshCount s.params s.clkmhz.toNat s.refms.toNat)

/-- R120: a reserved encoding completes with `InvalidParameter` and `RESERVED_ENC`, `OP` as encoded, and no other effect. The
reserved words are those with `OP` 8 to 15, and those with `OP = 6` and `WIDTH = 3`. -/
def Obligations.ReservedEncodingResult : Prop :=
  (∀ w : Word, (8 ≤ (cmdOp w).toNat → decodeCmd w = .rsvd (cmdOp w) ∧ (Instr.rsvd (cmdOp w)).wf = true) ∧
    (cmdOp w = 6 → cmdWidth w = 3 → decodeCmd w = .rsvdChkacc)) ∧
  ∀ (s : State) (i : Instr) (op : BitVec 4), s.fsm = .idle → (i = .rsvdChkacc ∧ op = 6) ∨ (i = .rsvd op ∧ i.wf = true) →
    exec i s = .next { s with
      result :=
        { code := .invalidParameter, aligned := false, reason := .reservedEnc, step := 0, op := op, patched := false }
      resval := 0 }

/-- R121: the validator's operations write `RESULT` and `RESVAL` only, never to `Busy`, and read neither `ATTACHED`, `CFGA0`,
`CFGA1` nor `CTLREG`: the same two values come out whatever those hold. -/
def Obligations.ValidatorIsPure : Prop :=
  ∀ (s : State) (i : Instr) (op : BitVec 4), s.fsm = .idle →
    i ∈ [Instr.chkrange, .chkaccB, .chkaccH, .chkaccW, .rsvdChkacc, .calcref, .rsvd op] →
    ∃ r v, r.code ≠ .busy ∧ ∀ (a : Bool) (c0 c1 k : Word),
      exec i { s with attached := a, cfga0 := c0, cfga1 := c1, ctlreg := k } =
        .next { s with attached := a, cfga0 := c0, cfga1 := c1, ctlreg := k, result := r, resval := v }

/-! The controller port. -/

/-- R53, for each command the block can hold: `ENTER` lasts one cycle with `cmd_req = 0`; then `cmd_req = 1` with every field
of the request steady until `cmd_done`. The fields driven beside it are those of the port word of the state (R71), and
`cmd_timeout` is `P_CMD_TIMEOUT` (R12, R48). -/
def Obligations.CommandHandshake : Prop :=
  ∀ (s : State) (i : Instr) (t : BitVec 2) (n : BitVec 4) (m : BitVec 14), s.fsm.onCmdPort = true →
    i ∈ [Instr.portNormal t n m, .portClkEnable t n m, .portPall t n m, .portAutorefresh t n m, .portLoadMode t n m,
      .portSelfRefresh t n m, .portPowerDown t n m] →
    (s.cphase = .enter → s.cmdReq = false ∧ exec i s = .next { s with cphase := .wait }) ∧
    (s.cphase = .wait → s.cmdReq = true ∧ (s.pins.cmdDone = false → exec i s = .next s) ∧
      ∃ w : PortWord, s.portWord = some w ∧ s.cmdFields = some {
        mode := w.extractLsb' 0 3, target := w.extractLsb' 3 2, nrfsM1 := w.extractLsb' 5 4, mrd := w.extractLsb' 9 14
        timeout := s.params.cmdTimeout })

/-- R53, R54: the block never drives both requests; a request that is answered is dropped at that edge; and from one cycle with
a request to the next with one, it is the same request with the same fields. So two transactions are always separated by a
cycle with none. -/
def Obligations.OneRequestAtATime : Prop :=
  (∀ s : State, ¬(s.cmdReq = true ∧ s.rtrReq = true)) ∧
  (∀ s t : State, step s = .next t →
    (s.cmdReq = true → t.rtrReq = false ∧ (s.pins.cmdDone = true → t.cmdReq = false) ∧
      (t.cmdReq = true → t.cmdFields = s.cmdFields ∧ t.fsm = s.fsm)) ∧
    (s.rtrReq = true → t.cmdReq = false ∧ (s.pins.rtrDone = true → t.rtrReq = false) ∧
      (t.rtrReq = true → t.rtrValue = s.rtrValue)))

/-- R82: the port word of each state that builds one, as the table gives it, and the refresh-timer value. -/
def Obligations.PortWordsBuilt : Prop :=
  ∀ (s : State) (t u : PortWord), t = (latchTarget s.lCfg0).setWidth 23 <<< 3 → u = s.lTgt.setWidth 23 <<< 3 →
    (s.fsm = .iCke → s.portWord = some (0x000001 ||| t)) ∧
    (s.fsm = .iPall → s.portWord = some (0x000002 ||| t)) ∧
    (s.fsm = .iAref → s.params.arefCount = 8 → s.portWord = some (0x0000E3 ||| t)) ∧
    (s.fsm = .iLmr → s.portWord = some (0x000004 ||| t ||| s.lMr.setWidth 23 <<< 9)) ∧
    (s.fsm = .dPd → s.portWord = some (0x000006 ||| u)) ∧
    (s.fsm = .mLmr → s.portWord = some (0x000004 ||| u ||| s.lMr.setWidth 23 <<< 9)) ∧
    (s.fsm = .sCmd → s.portWord = some s.lScmd) ∧
    (s.rtrReq = true → s.rtrValue = some s.lCfg1)

/-- R87, R95: step 1 of INIT. -/
def Obligations.ClockEnableStep : Prop :=
  ∀ (s : State) (w : PortWord), s.fsm = .iCke → s.cphase = .wait → s.pins.cmdDone = true →
    w = packPort 1 (latchTarget s.lCfg0) 0 0 →
    s.portWord = some w ∧ decodePort w = .portClkEnable (latchTarget s.lCfg0) 0 0 ∧
    (s.pins.cmdOk = true →
      exec (decodePort w) s = .next { s with dcnt := 0, fsm := .iDly, trace := .cmd w true :: s.trace }) ∧
    (s.pins.cmdOk = false →
      exec (decodePort w) s = .next { s with
        cfga0 := 0, cfga1 := 0, attached := false
        result := { s.result with step := 1, code := .error, reason := .none }
        fsm := .idle, trace := .cmd w false :: s.trace })

/-- R89, R95: step 3 of INIT. -/
def Obligations.PrechargeStep : Prop :=
  ∀ (s : State) (w : PortWord), s.fsm = .iPall → s.cphase = .wait → s.pins.cmdDone = true →
    w = packPort 2 (latchTarget s.lCfg0) 0 0 →
    s.portWord = some w ∧ decodePort w = .portPall (latchTarget s.lCfg0) 0 0 ∧
    (s.pins.cmdOk = true →
      exec (decodePort w) s = .next { s with fsm := .iAref, cphase := .enter, trace := .cmd w true :: s.trace }) ∧
    (s.pins.cmdOk = false →
      exec (decodePort w) s = .next { s with
        cfga0 := 0, cfga1 := 0, attached := false
        result := { s.result with step := 3, code := .error, reason := .none }
        fsm := .idle, trace := .cmd w false :: s.trace })

/-- R90, R95: step 4 of INIT, one command with the whole burst count. -/
def Obligations.AutoRefreshStep : Prop :=
  ∀ (s : State) (w : PortWord) (n : BitVec 4), s.fsm = .iAref → s.cphase = .wait → s.pins.cmdDone = true →
    n.toNat + 1 = s.params.arefCount → w = packPort 3 (latchTarget s.lCfg0) n 0 →
    s.portWord = some w ∧ decodePort w = .portAutorefresh (latchTarget s.lCfg0) n 0 ∧
    (s.pins.cmdOk = true → exec (decodePort w) s = .next { s with fsm := .iRdcas, trace := .cmd w true :: s.trace }) ∧
    (s.pins.cmdOk = false →
      exec (decodePort w) s = .next { s with
        cfga0 := 0, cfga1 := 0, attached := false
        result := { s.result with step := 4, code := .error, reason := .none }
        fsm := .idle, trace := .cmd w false :: s.trace })

/-- R92, R95: the command of step 5 of INIT, with the mode register built in step 5a. -/
def Obligations.LoadModeStep : Prop :=
  ∀ (s : State) (w : PortWord), s.fsm = .iLmr → s.cphase = .wait → s.pins.cmdDone = true →
    w = packPort 4 (latchTarget s.lCfg0) 0 s.lMr →
    s.portWord = some w ∧ decodePort w = .portLoadMode (latchTarget s.lCfg0) 0 s.lMr ∧
    (s.pins.cmdOk = true → exec (decodePort w) s = .next { s with fsm := .iRecon, trace := .cmd w true :: s.trace }) ∧
    (s.pins.cmdOk = false →
      exec (decodePort w) s = .next { s with
        cfga0 := 0, cfga1 := 0, attached := false
        result := { s.result with step := 5, code := .error, reason := .none }
        fsm := .idle, trace := .cmd w false :: s.trace })

/-- R105: DEINIT's power-down: it waits for the response; `Ok` and `Fail` take the same path, to the detached state with
`Ok`. -/
def Obligations.PowerDownStep : Prop :=
  ∀ (s : State) (w : PortWord), s.fsm = .dPd → s.cphase = .wait → w = packPort 6 s.lTgt 0 0 →
    s.portWord = some w ∧ decodePort w = .portPowerDown s.lTgt 0 0 ∧
    (s.pins.cmdDone = false → exec (decodePort w) s = .next s) ∧
    (s.pins.cmdDone = true → exec (decodePort w) s = .next { s with
      attached := false, cfga0 := 0, cfga1 := 0
      result := { s.result with code := .ok, reason := .none }
      fsm := .idle, trace := .cmd w s.pins.cmdOk :: s.trace })

/-- R107: SETMR's command. On `Ok`, BL, BT, CAS and WB of `CFGA0` come from the payload and every other bit stays, OM and
TARGET among them; on `Fail` the configuration is unchanged. -/
def Obligations.SetModeStep : Prop :=
  ∀ (s : State) (w : PortWord), s.fsm = .mLmr → s.cphase = .wait → s.pins.cmdDone = true → w = packPort 4 s.lTgt 0 s.lMr →
    s.portWord = some w ∧ decodePort w = .portLoadMode s.lTgt 0 s.lMr ∧
    (s.pins.cmdOk = true → ∃ c : Word,
      exec (decodePort w) s = .next { s with
        cfga0 := c, result := { s.result with code := .ok, reason := .none }, fsm := .idle
        trace := .cmd w true :: s.trace } ∧
      (∀ k, k < 7 ∨ k = 9 → c.getLsbD k = s.lMr.getLsbD k) ∧
      (∀ k, ¬(k < 7 ∨ k = 9) → c.getLsbD k = s.cfga0.getLsbD k)) ∧
    (s.pins.cmdOk = false →
      exec (decodePort w) s = .next { s with
        result := { s.result with code := .error, reason := .none }, fsm := .idle
        trace := .cmd w false :: s.trace })

/-- R108: SENDCMD's command, whichever mode but the reserved one: it is sent as it is, the operation ends with the answer, and
no configuration changes. -/
def Obligations.PassthroughStep : Prop :=
  ∀ (s : State) (i : Instr) (t : BitVec 2) (n : BitVec 4) (m : BitVec 14),
    s.fsm = .sCmd → s.cphase = .wait → s.pins.cmdDone = true →
    i ∈ [Instr.portNormal t n m, .portClkEnable t n m, .portPall t n m, .portAutorefresh t n m, .portLoadMode t n m,
      .portSelfRefresh t n m, .portPowerDown t n m] →
    exec i s = .next { s with
      result := { s.result with code := if s.pins.cmdOk then .ok else .error, reason := .none }
      fsm := .idle
      trace := .cmd ((encodeWord i).setWidth 23) s.pins.cmdOk :: s.trace }

/-- R79, R108: mode 7 is never sent: no step answers a command of that mode, and no state with the control invariant drives a
request of it. A block that held one in `S_CMD` would end with
`RESERVED_ENC` and send nothing; that last point is the model's own (log entry 16). -/
def Obligations.ReservedModeNeverSent : Prop :=
  (∀ (s t : State) (w : PortWord) (ok : Bool), step s = .next t → portMode w = 7 →
    .cmd w ok ∈ t.trace → .cmd w ok ∈ s.trace) ∧
  (∀ s : State, ControlInv s → ∀ f, s.cmdFields = some f → f.mode ≠ 7) ∧
  (∀ (s : State) (t : BitVec 2) (n : BitVec 4) (m : BitVec 14), s.fsm = .sCmd →
    exec (.portRsvd t n m) s = .next { s with
      result := { s.result with code := .invalidParameter, reason := .reservedEnc }, fsm := .idle })

/-- R55: with no answer the block stays in its command state, and `BUSY` stays 1, however long, whatever the ticks, the host's
admitted accesses and other writers of `CTLREG`; the port events added are the host's reads. (That `S_CMD` holds no reserved
mode is part of `ControlInv`.) -/
def Obligations.NoAnswerIsAHang : Prop :=
  ∀ (es rest : List Edge) (s : State), s.fsm.onCmdPort = true ∨ s.fsm = .iRtr →
    s.fsm ≠ .sCmd ∨ portMode s.lScmd ≠ 7 → s.inputs = es ++ rest → es.all Edge.unanswered = true →
    ∃ t : State, runSteps es.length s = .next t ∧ t.fsm = s.fsm ∧ t.busy = true ∧ t.result = s.result ∧ t.inputs = rest ∧
      ∃ rs, t.trace = rs ++ s.trace ∧ ∀ e ∈ rs, ∃ off v, e = .hostRead off v

/-! The INIT states with no command. -/

/-- R88: one edge in `I_DLY`, with no host access. `CTLREG` takes whatever the controller's part of the edge gives it, which
is the model's choice where another agent writes (log entries 6 and 22). -/
def Obligations.DelayStep : Prop :=
  ∀ (s : State) (p : Pins) (rest : List Edge) (k : Word) (d : Nat),
    s.inputs = .clock p :: rest → p.host = none → s.fsm = .iDly →
    k = (s.ctlEdge s.ctlOut p.ctlOther).ctlreg → d = (s.ctlEdge s.ctlOut p.ctlOther).draws →
    (p.tick = false → step s = .next { s with ctlOut := none, ctlreg := k, draws := d, inputs := rest }) ∧
    (p.tick = true → s.dcnt = s.params.powerupDelayTicks →
      step s = .next { s with
        fsm := .iPall, cphase := .enter, ctlOut := none, ctlreg := k, draws := d, inputs := rest }) ∧
    (p.tick = true → s.dcnt ≠ s.params.powerupDelayTicks →
      step s = .next { s with dcnt := s.dcnt + 1, ctlOut := none, ctlreg := k, draws := d, inputs := rest })

/-- R88: `I_DLY`, entered with `dcnt = 0`, holds through `P_POWERUP_DELAY_TICKS` ticks and is left at the next one. -/
def Obligations.DelayHoldsItsTicks : Prop :=
  ∀ (es rest : List Edge) (s : State), s.fsm = .iDly → s.dcnt = 0 → s.inputs = es ++ rest →
    es.all Edge.silent = true →
    (es.countP Edge.ticks ≤ s.params.powerupDelayTicks →
      ∃ t : State, runSteps es.length s = .next t ∧ t.fsm = .iDly ∧ t.dcnt = es.countP Edge.ticks ∧
        t.inputs = rest) ∧
    (∀ last, es = es.dropLast ++ [last] → last.ticks = true →
      es.countP Edge.ticks = s.params.powerupDelayTicks + 1 →
      ∃ t : State, runSteps es.length s = .next t ∧ t.fsm = .iPall ∧ t.cphase = .enter ∧ t.inputs = rest)

/-- R91: the edge in `I_RDCAS`, with no host access: the CAS comes from `CTLREG` as it was before the edge. What `CTLREG`
holds after it is the model's choice where another agent writes (log entries 6 and 22). -/
def Obligations.ReadCasStep : Prop :=
  ∀ (s : State) (p : Pins) (rest : List Edge) (m : BitVec 3) (k : Word) (d : Nat),
    s.inputs = .clock p :: rest → p.host = none → s.fsm = .iRdcas →
    m = casCtlToMr (s.ctlreg.extractLsb' s.params.casLsb 2) →
    k = (s.ctlEdge s.ctlOut p.ctlOther).ctlreg → d = (s.ctlEdge s.ctlOut p.ctlOther).draws →
    step s = .next { s with
      mrcas := m, lMr := mrBuild s.lCfg0 m, fsm := .iLmr, cphase := .enter
      trace := .ctlRead s.ctlreg :: s.trace, ctlOut := none, ctlreg := k, draws := d, inputs := rest }

/-- R93: the edge in `I_RECON`, with no host access: a fresh read of `CTLREG`, and a patch where its CAS is not the mode
register's; that the patch is on the port in the next cycle, with `CTLREG` as yet unchanged by it, is the model's reading of
R50 and R59 (log entry 8, DEDUCED). What `CTLREG` holds after the edge is the model's choice where another agent writes (log
entries 6 and 22). -/
def Obligations.ReconcileStep : Prop :=
  ∀ (s : State) (p : Pins) (rest : List Edge) (c e : BitVec 2) (v k : Word) (d : Nat),
    s.inputs = .clock p :: rest → p.host = none → s.fsm = .iRecon →
    c = s.ctlreg.extractLsb' s.params.casLsb 2 → e = casMrToCtl s.mrcas →
    v = (s.ctlreg &&& ~~~((3 : Word) <<< s.params.casLsb)) ||| (e.setWidth 32 <<< s.params.casLsb) →
    k = (s.ctlEdge s.ctlOut p.ctlOther).ctlreg → d = (s.ctlEdge s.ctlOut p.ctlOther).draws →
    (c = e → step s = .next { s with
      fsm := .iRtr, cphase := .enter, trace := .ctlRead s.ctlreg :: s.trace
      ctlOut := none, ctlreg := k, draws := d, inputs := rest }) ∧
    (c ≠ e → step s = .next { s with
      fsm := .iRtr, cphase := .enter, trace := .ctlWrite v :: .ctlRead s.ctlreg :: s.trace
      ctlOut := some v, result := { s.result with patched := true }, ctlreg := k, draws := d, inputs := rest })

/-- R50: a write the block has on the port reaches `CTLREG` at the end of its one cycle, when no other agent writes. (Which
cycle that is, log entry 8 settles.) -/
def Obligations.PatchReachesCtlreg : Prop :=
  ∀ (s t : State) (p : Pins) (rest : List Edge) (v : Word),
    s.inputs = .clock p :: rest → p.ctlOther = none → s.ctlOut = some v → s.fsm ≠ .iRecon → step s = .next t →
    s.ctlWe = true ∧ s.ctlWdata = some v ∧ t.ctlreg = v ∧ t.ctlWe = false

/-- R94, R95, R53: the edges in `I_RTR`, with no host access. What `CTLREG` holds after each is the model's choice where
another agent writes (log entries 6 and 22). -/
def Obligations.RefreshTimerStep : Prop :=
  ∀ (s : State) (p : Pins) (rest : List Edge) (k : Word) (d : Nat),
    s.inputs = .clock p :: rest → p.host = none → s.fsm = .iRtr →
    k = (s.ctlEdge s.ctlOut p.ctlOther).ctlreg → d = (s.ctlEdge s.ctlOut p.ctlOther).draws →
    (s.cphase = .enter → s.rtrReq = false ∧
      step s = .next { s with cphase := .wait, ctlOut := none, ctlreg := k, draws := d, inputs := rest }) ∧
    (s.cphase = .wait → s.rtrValue = some s.lCfg1 ∧
      (p.rtrDone = false → step s = .next { s with ctlOut := none, ctlreg := k, draws := d, inputs := rest })) ∧
    (s.cphase = .wait → p.rtrDone = true → p.rtrOk = true →
      step s = .next { s with
        cfga0 := ((s.lCfg0 &&& 0x338F).setWidth 32) ||| (s.mrcas.setWidth 32 <<< 4)
        cfga1 := s.lCfg1, attached := true
        result := { s.result with code := .ok, reason := .none }
        fsm := .idle, trace := .rtr s.lCfg1 true :: s.trace
        ctlOut := none, ctlreg := k, draws := d, inputs := rest }) ∧
    (s.cphase = .wait → p.rtrDone = true → p.rtrOk = false →
      step s = .next { s with
        cfga0 := 0, cfga1 := 0, attached := false
        result := { s.result with step := 7, code := .error, reason := .none }
        fsm := .idle, trace := .rtr s.lCfg1 false :: s.trace
        ctlOut := none, ctlreg := k, draws := d, inputs := rest })

/-! The mode register and CAS. -/

/-- R73, R72: the INIT payload takes BL, BT, OM and WB from the configuration and CAS from the code chosen; bits 13:10 are
0. R77, R78: the two CAS maps, and what their composition does. -/
def Obligations.ModeRegisterAndCasMaps : Prop :=
  (∀ (c : BitVec 14) (m : BitVec 3),
    mrBuild c m =
      ((0 : BitVec 4) ++ c.extractLsb' 9 1 ++ c.extractLsb' 7 2 ++ m ++ c.extractLsb' 3 1 ++ c.extractLsb' 0 3)) ∧
  casCtlToMr 0b10 = 0b010 ∧ casCtlToMr 0b11 = 0b011 ∧ casCtlToMr 0b00 = 0b011 ∧ casCtlToMr 0b01 = 0b011 ∧
  casMrToCtl 0b010 = 0b10 ∧ casMrToCtl 0b011 = 0b11 ∧ (∀ m : BitVec 3, m ≠ 0b010 → casMrToCtl m = 0b11) ∧
  (∀ c : BitVec 2, casMrToCtl (casCtlToMr c) = if c = 0b10 ∨ c = 0b11 then c else 0b11)

/-- R93: the patch puts the value into the 2-bit subfield and leaves every other bit as read, wherever the subfield stands. -/
def Obligations.PatchChangesOnlySubfield : Prop :=
  ∀ (p : Params) (e : BitVec 2) (r : Word),
    casField p.casLsb (patchCas p.casLsb e r) = e ∧
    ∀ k, k ≠ p.casLsb → k ≠ p.casLsb + 1 → (patchCas p.casLsb e r).getLsbD k = r.getLsbD k

/-- R98, with the invariant of `ControlInv`: while no other agent writes `CTLREG`, `I_RECON` makes the controller's CAS (with
the write then on its port, log entry 8) agree with the mode register's, `I_RTR` keeps that, and an INIT that ends attached leaves `CTLREG`,
`CFGA0`, `L_MR` and `mrcas` in agreement. -/
def Obligations.CasAgreementAfterInit : Prop :=
  ∀ (s t : State) (p : Pins) (rest : List Edge), ControlInv s → s.inputs = .clock p :: rest → p.ctlOther = none →
    step s = .next t →
    (s.fsm = .iRecon →
      casField t.params.casLsb (t.ctlOut.getD t.ctlreg) = casMrToCtl t.mrcas) ∧
    (s.fsm = .iRtr → casField s.params.casLsb (s.ctlOut.getD s.ctlreg) = casMrToCtl s.mrcas →
      casField t.params.casLsb (t.ctlOut.getD t.ctlreg) = casMrToCtl t.mrcas ∧
      (t.fsm = .idle → t.attached = true →
        t.ctlOut = none ∧ casField t.params.casLsb t.ctlreg = casMrToCtl (cfgCasField t.cfga0) ∧
        cfgCasField t.cfga0 = mrCasField t.lMr ∧ mrCasField t.lMr = t.mrcas))

/-- R97: a complete successful INIT, from its acceptance in any idle state, with each request answered `Ok` after any number of
waiting cycles and the ticks at any edges, while the host makes no access and no other agent writes `CTLREG`: exactly these
port events in this order, a `CtlRegWrite` if and only if the controller's CAS is one the block does not recognise, and the
final state of R94. -/
def Obligations.SuccessfulInitRun : Prop :=
  ∀ (s : State) (v : Word) (c : InitSchedule) (rest : List Edge) (tgt : BitVec 2) (m : BitVec 3) (mr : BitVec 14)
    (n : BitVec 4) (patch : Word),
    s.fsm = .idle → s.ctlOut = none → s.cfg0.getLsbD 31 = true → decodeCmd v = .init →
    c.Succeeds s.params.powerupDelayTicks →
    s.inputs = .clock { host := some (.write .word 0 v) } :: (c.edges ++ rest) →
    tgt = s.cfg0.extractLsb' 12 2 → n.toNat + 1 = s.params.arefCount →
    m = casCtlToMr (casField s.params.casLsb s.ctlreg) → mr = mrBuild (s.cfg0.extractLsb' 0 14) m →
    patch = patchCas s.params.casLsb (casMrToCtl m) s.ctlreg →
    ∃ t : State, runSteps (c.edges.length + 1) s = .next t ∧
      t.fsm = .idle ∧ t.attached = true ∧ t.inputs = rest ∧ t.result.code = .ok ∧ t.result.step = 0 ∧
      t.cfga0 = initCfga0 (s.cfg0.extractLsb' 0 14) m ∧ t.cfga1 = s.cfg1 ∧
      (casField s.params.casLsb s.ctlreg = casMrToCtl m →
        t.ctlreg = s.ctlreg ∧ t.result.patched = false ∧
        t.trace = [.rtr s.cfg1 true, .ctlRead s.ctlreg, .cmd (packPort 4 tgt 0 mr) true, .ctlRead s.ctlreg,
          .cmd (packPort 3 tgt n 0) true, .cmd (packPort 2 tgt 0 0) true, .cmd (packPort 1 tgt 0 0) true] ++ s.trace) ∧
      (casField s.params.casLsb s.ctlreg ≠ casMrToCtl m →
        t.ctlreg = patch ∧ t.result.patched = true ∧
        t.trace = [.rtr s.cfg1 true, .ctlWrite patch, .ctlRead s.ctlreg, .cmd (packPort 4 tgt 0 mr) true,
          .ctlRead s.ctlreg, .cmd (packPort 3 tgt n 0) true, .cmd (packPort 2 tgt 0 0) true,
          .cmd (packPort 1 tgt 0 0) true] ++ s.trace)

/-! Host registers. -/

/-- R22 to R36, R45, R47: what an aligned 32-bit host read puts on the bus: the register's value, or 0 at an offset with no
register inside the window, changing nothing; past the window the value is free. -/
def Obligations.HostReads : Prop :=
  (∀ s : State,
    readMapped s 0x00 = some 0 ∧ readMapped s 0x04 = some (statusWord s) ∧ readMapped s 0x08 = some (resultWord s.result) ∧
    readMapped s 0x0C = some s.resval ∧ readMapped s 0x10 = some s.cfg0 ∧ readMapped s 0x14 = some s.cfg1 ∧
    readMapped s 0x18 = some s.mrraw ∧ readMapped s 0x1C = some s.scmd ∧ readMapped s 0x20 = some s.offset ∧
    readMapped s 0x24 = some s.len ∧ readMapped s 0x28 = some s.buf ∧ readMapped s 0x2C = some s.clkmhz ∧
    readMapped s 0x30 = some s.refms ∧ readMapped s 0x34 = some s.cfga0 ∧ readMapped s 0x38 = some s.cfga1 ∧
    (∃ v : Word, readMapped s 0x3C = some v ∧ v.toNat = s.params.capacity)) ∧
  (∀ (s : State) (off : Nat), s.pins.host = some (.read .word off) → off % 4 = 0 →
    (∀ v, readMapped s off = some v → s.hostPhase = .next { s with trace := .hostRead off v :: s.trace }) ∧
    (64 ≤ off → off < s.params.regSpan → s.hostPhase = .next { s with trace := .hostRead off 0 :: s.trace }) ∧
    (s.params.regSpan ≤ off → ∃ v, s.hostPhase = .next { s with
      trace := .hostRead off v :: s.trace, draws := s.draws + 1 }))

/-- R24, R25, R27: the fields of the words read from `STATUS` and `RESULT`; `BUSY` is 1 exactly when `fsm != IDLE`; every
reserved bit is 0. The numbers that stand in `FSM`, `CODE` and `REASON` are those of the tables of R37, R122 and R123. -/
def Obligations.StatusAndResultFields : Prop :=
  (∀ s : State,
    (statusWord s).getLsbD 0 = decide (s.fsm ≠ .idle) ∧ (statusWord s).getLsbD 1 = s.attached ∧
    (statusWord s).getLsbD 2 = s.rejected ∧ (statusWord s).extractLsb' 3 5 = 0 ∧
    (statusWord s).extractLsb' 8 5 = s.fsm.code ∧ (statusWord s).extractLsb' 13 19 = 0) ∧
  (∀ r : Result,
    (resultWord r).extractLsb' 0 3 = r.code.code ∧ (resultWord r).getLsbD 3 = r.aligned ∧
    (resultWord r).extractLsb' 4 3 = r.reason.code ∧ (resultWord r).getLsbD 7 = false ∧
    (resultWord r).extractLsb' 8 3 = r.step ∧ (resultWord r).getLsbD 11 = false ∧
    (resultWord r).extractLsb' 12 4 = r.op ∧ (resultWord r).getLsbD 16 = r.patched ∧
    (resultWord r).extractLsb' 17 15 = 0) ∧
  (Fsm.idle.code = 0 ∧ Fsm.iCke.code = 1 ∧ Fsm.iDly.code = 2 ∧ Fsm.iPall.code = 3 ∧ Fsm.iAref.code = 4 ∧
    Fsm.iRdcas.code = 5 ∧ Fsm.iLmr.code = 6 ∧ Fsm.iRecon.code = 7 ∧ Fsm.iRtr.code = 8 ∧ Fsm.dPd.code = 9 ∧
    Fsm.mLmr.code = 10 ∧ Fsm.sCmd.code = 11) ∧
  (StatusCode.ok.code = 0 ∧ StatusCode.error.code = 1 ∧ StatusCode.busy.code = 2 ∧ StatusCode.timeout.code = 3 ∧
    StatusCode.invalidParameter.code = 4) ∧
  (Reason.none.code = 0 ∧ Reason.nullBuffer.code = 1 ∧ Reason.zeroSize.code = 2 ∧ Reason.offsetRange.code = 3 ∧
    Reason.endRange.code = 4 ∧ Reason.reservedEnc.code = 5 ∧ Reason.nullConfig.code = 6 ∧ Reason.arith.code = 7)

/-- R24, R29 to R33: the write rule of each writable register, while busy and while idle alike (R45); writes to the read-only
registers, and to aligned offsets with no register, are ignored (R22, R27, R28, R34, R36, R47). -/
def Obligations.HostWrites : Prop :=
  ∀ (s : State) (off : Nat) (v : Word), s.pins.host = some (.write .word off v) →
    (off = 0x04 → v.getLsbD 2 = true → s.hostPhase = .next { s with rejected := false }) ∧
    (off = 0x04 → v.getLsbD 2 = false → s.hostPhase = .next s) ∧
    (off = 0x10 → s.hostPhase = .next { s with cfg0 := v &&& 0x800033FF }) ∧
    (off = 0x14 → s.hostPhase = .next { s with cfg1 := v }) ∧
    (off = 0x18 → s.hostPhase = .next { s with mrraw := v &&& 0x00003FFF }) ∧
    (off = 0x1C → s.hostPhase = .next { s with scmd := v &&& 0x007FFFFF }) ∧
    (off = 0x20 → s.hostPhase = .next { s with offset := v }) ∧
    (off = 0x24 → s.hostPhase = .next { s with len := v }) ∧
    (off = 0x28 → s.hostPhase = .next { s with buf := v }) ∧
    (off = 0x2C → s.hostPhase = .next { s with clkmhz := v }) ∧
    (off = 0x30 → s.hostPhase = .next { s with refms := v }) ∧
    (off % 4 = 0 → off = 0x08 ∨ off = 0x0C ∨ 0x34 ≤ off → s.hostPhase = .next s)

/-- R58: a host read inside the decode window has no side effect: the same edge with and without it leaves the same state but
for the port events. -/
def Obligations.HostReadHasNoSideEffect : Prop :=
  ∀ (s : State) (p : Pins) (rest : List Edge) (off : Nat) (t : State),
    p.host = none → off % 4 = 0 → off < s.params.regSpan →
    step { s with inputs := .clock p :: rest } = .next t →
    ∃ tr, step { s with inputs := .clock { p with host := some (.read .word off) } :: rest } = .next { t with trace := tr }

/-- R144, R126: a `CMD` write at an edge of a running operation, the edge at which it ends included, is rejected: it sets
`REJECTED`, and the operation takes the step it would take without it. -/
def Obligations.CommandAtFinishingEdge : Prop :=
  ∀ (s : State) (p : Pins) (rest : List Edge) (v : Word) (t : State), s.fsm ≠ .idle → p.host = none →
    step { s with inputs := .clock p :: rest } = .next t →
    step { s with inputs := .clock { p with host := some (.write .word 0 v) } :: rest } = .next { t with rejected := true }

/-! Reset. -/

/-- R139, R140: a clock edge with `rst = 1` puts every piece of block state at its reset value, whatever the state was. The
parameters and the inputs to come stay; `CTLREG` is not reset (R41), and keeps its value when the block was idle and nothing
wrote it. Three points are the model's choices: another agent's write to `CTLREG` lands in a cycle with `rst = 1` (log entry
7), as the word written (log entry 22), and the record of port events survives reset (log entry 9). -/
def Obligations.ResetEdge : Prop :=
  ∀ (s : State) (other : Option Word) (rest : List Edge), s.inputs = .reset other :: rest →
    ∃ (k : Word) (d : Nat),
      step s = .next { State.reset with
        params := s.params, ctlreg := k, draws := d, inputs := rest, trace := s.trace } ∧
      (s.fsm = .idle → s.ctlOut = none → k = other.getD s.ctlreg ∧ d = s.draws)

/-- R140: the reset values, as a host reads them and inside the block, and the outputs. -/
def Obligations.ResetValues : Prop :=
  (∀ off ∈ [0x00, 0x04, 0x08, 0x0C, 0x10, 0x14, 0x18, 0x1C, 0x20, 0x24, 0x28, 0x2C, 0x30, 0x34, 0x38],
    readMapped State.reset off = some 0) ∧
  readMapped State.reset 0x3C = some 0x02000000 ∧
  State.reset.fsm = .idle ∧ State.reset.cphase = .enter ∧ State.reset.dcnt = 0 ∧ State.reset.lCfg0 = 0 ∧
  State.reset.lCfg1 = 0 ∧ State.reset.lMr = 0 ∧ State.reset.lScmd = 0 ∧ State.reset.lTgt = 0 ∧ State.reset.mrcas = 0 ∧
  State.reset.cmdReq = false ∧ State.reset.rtrReq = false ∧ State.reset.ctlWe = false

/-! Invariants and whole-machine rules. -/

/-- The three invariants hold at reset. -/
def Obligations.InvariantsAtReset : Prop :=
  ControlInv State.reset ∧ ResultInv State.reset ∧ ReservedInv State.reset

/-- R43: every step keeps the control invariant. -/
def Obligations.ControlInvariantKept : Prop :=
  ∀ s t : State, ControlInv s → step s = .next t → ControlInv t

/-- R27, R122 to R124: every step keeps what the fields of `RESULT` may hold together. -/
def Obligations.ResultInvariantKept : Prop :=
  ∀ s t : State, ControlInv s → ResultInv s → step s = .next t → ResultInv t

/-- R29, R31, R32, R34: every step keeps the reserved bits of the stored registers at 0. -/
def Obligations.ReservedBitsStayZero : Prop :=
  ∀ s t : State, ReservedInv s → step s = .next t → ReservedInv t

/-- R86: the transition out of each INIT state at a clock edge, whatever the host does; no other transition leaves one. -/
def Obligations.InitTransitions : Prop :=
  ∀ (s t : State) (p : Pins) (rest : List Edge), s.inputs = .clock p :: rest → step s = .next t →
    (s.fsm = .iCke → t.fsm = if s.cphase = .wait ∧ p.cmdDone then (if p.cmdOk then .iDly else .idle) else .iCke) ∧
    (s.fsm = .iDly → t.fsm = if p.tick ∧ s.dcnt = s.params.powerupDelayTicks then .iPall else .iDly) ∧
    (s.fsm = .iPall → t.fsm = if s.cphase = .wait ∧ p.cmdDone then (if p.cmdOk then .iAref else .idle) else .iPall) ∧
    (s.fsm = .iAref → t.fsm = if s.cphase = .wait ∧ p.cmdDone then (if p.cmdOk then .iRdcas else .idle) else .iAref) ∧
    (s.fsm = .iRdcas → t.fsm = .iLmr) ∧
    (s.fsm = .iLmr → t.fsm = if s.cphase = .wait ∧ p.cmdDone then (if p.cmdOk then .iRecon else .idle) else .iLmr) ∧
    (s.fsm = .iRecon → t.fsm = .iRtr) ∧
    (s.fsm = .iRtr → t.fsm = if s.cphase = .wait ∧ p.rtrDone then .idle else .iRtr)

/-- R85, R104 to R108: the transition out of `IDLE` and of the states of DEINIT, SETMR and SENDCMD at a clock edge, whatever
the host does: `IDLE` is left only by an accepted command that starts a sequence, the others only by their response. (That
`S_CMD` holds no reserved mode is part of `ControlInv`.) -/
def Obligations.CommandTransitions : Prop :=
  ∀ (s t : State) (p : Pins) (rest : List Edge), s.inputs = .clock p :: rest → step s = .next t →
    (s.fsm = .idle → (∀ v, p.host ≠ some (.write .word 0 v)) → t.fsm = .idle) ∧
    (s.fsm = .idle → ∀ v, p.host = some (.write .word 0 v) →
      (decodeCmd v = .init → t.fsm = if s.cfg0.getLsbD 31 then .iCke else .idle) ∧
      (decodeCmd v = .deinit → t.fsm = if s.attached then .dPd else .idle) ∧
      (decodeCmd v = .setmr → t.fsm = if s.attached then .mLmr else .idle) ∧
      (decodeCmd v = .sendcmd →
        t.fsm = if s.attached ∧ s.scmd.extractLsb' 0 3 ≠ (7 : BitVec 3) then .sCmd else .idle) ∧
      (decodeCmd v ∉ [Instr.init, .deinit, .setmr, .sendcmd] → t.fsm = .idle)) ∧
    (s.fsm = .dPd → t.fsm = if s.cphase = .wait ∧ p.cmdDone then .idle else .dPd) ∧
    (s.fsm = .mLmr → t.fsm = if s.cphase = .wait ∧ p.cmdDone then .idle else .mLmr) ∧
    (s.fsm = .sCmd → portMode s.lScmd ≠ 7 → t.fsm = if s.cphase = .wait ∧ p.cmdDone then .idle else .sCmd)

/-- R26: what writes `ATTACHED`: the successful end of INIT sets it; the start and every failure of INIT, DEINIT and reset
clear it. -/
def Obligations.AttachedWriters : Prop :=
  ∀ s t : State, step s = .next t →
    (s.attached = false → t.attached = true →
      s.fsm = .iRtr ∧ s.cphase = .wait ∧ s.pins.rtrDone = true ∧ s.pins.rtrOk = true) ∧
    (s.attached = true → t.attached = false →
      (∃ o rest, s.inputs = .reset o :: rest) ∨ (s.fsm = .idle ∧ t.fsm = .iCke) ∨ s.fsm = .dPd ∨
      (s.fsm.inInit = true ∧ t.fsm = .idle ∧ t.result.code = .error))

/-- R34, R101: what writes the active configuration: the end of INIT, a successful SETMR, DEINIT and reset, each at the edge
at which the operation ends; a running INIT leaves it alone. -/
def Obligations.ActiveConfigWriters : Prop :=
  ∀ s t : State, step s = .next t → (t.cfga0 ≠ s.cfga0 ∨ t.cfga1 ≠ s.cfga1) →
    (∃ o rest, s.inputs = .reset o :: rest) ∨
    (t.fsm = .idle ∧ (s.fsm = .dPd ∨ (s.fsm = .mLmr ∧ s.pins.cmdOk = true ∧ t.cfga1 = s.cfga1) ∨
      (s.fsm.inInit = true ∧ (t.attached = true ∨ (t.cfga0 = 0 ∧ t.cfga1 = 0)))))

/-- R38, R64, R145: a running operation works from its latches only: two busy states that differ in nothing but the staged
registers go, at an edge with no host access, to states that differ in nothing else. -/
def Obligations.OperandsDoNotReachRunningOperation : Prop :=
  ∀ (s t : State) (p : Pins) (rest : List Edge) (c0 c1 mr sc o l b f r : Word),
    s.inputs = .clock p :: rest → p.host = none → s.fsm ≠ .idle → step s = .next t →
    step { s with cfg0 := c0, cfg1 := c1, mrraw := mr, scmd := sc, offset := o, len := l, buf := b, clkmhz := f, refms := r }
      = .next { t with cfg0 := c0, cfg1 := c1, mrraw := mr, scmd := sc, offset := o, len := l, buf := b, clkmhz := f,
                       refms := r }

/-- R41: the block reads and writes `CTLREG` in `I_RDCAS` and `I_RECON` only: in any other state its value changes nothing
else of the edge, and no access to it is made. That `CTLREG` itself keeps its value over such an edge is the model's choice
where the spec gives it any value: at an edge at which INIT fails in step 1, 3 or 4 (93_implementation_defined.md U4; log entry
21) and after another agent's write (U14; log entry 22). -/
def Obligations.CtlregReachedInTwoStates : Prop :=
  ∀ (s t : State) (p : Pins) (rest : List Edge), s.inputs = .clock p :: rest → s.fsm ≠ .iRdcas → s.fsm ≠ .iRecon →
    s.ctlOut = none → p.ctlOther = none → step s = .next t →
    (∀ k, step { s with ctlreg := k } = .next { t with ctlreg := k }) ∧ t.ctlreg = s.ctlreg ∧
    (∀ v, (.ctlRead v ∈ t.trace → .ctlRead v ∈ s.trace) ∧ (.ctlWrite v ∈ t.trace → .ctlWrite v ∈ s.trace))

/-- No step changes the parameters, takes back a port event, or puts an input in; each uses up the next edge. -/
def Obligations.StepAdvancesTheRecord : Prop :=
  ∀ s t : State, step s = .next t →
    t.params = s.params ∧ t.inputs = s.inputs.tail ∧ s.draws ≤ t.draws ∧ ∃ es, t.trace = es ++ s.trace
end

