-- ==== Sys2Proof/Laws/Decode.lean ====
section
/-! SUPPORT. The fields of a packed port word, and what each encoder and decoder does with a field. -/

namespace Sys2Proof

/-! A port word and its four fields determine each other (R71). -/

@[simp] theorem portMode_packPort (a : BitVec 3) (t : BitVec 2) (n : BitVec 4) (m : BitVec 14) :
    portMode (packPort a t n m) = a := by
  apply BitVec.eq_of_getLsbD_eq; intro i hi
  simp only [portMode, packPort, BitVec.getLsbD_extractLsb', BitVec.getLsbD_append]
  simp [hi]

@[simp] theorem portTarget_packPort (a : BitVec 3) (t : BitVec 2) (n : BitVec 4) (m : BitVec 14) :
    portTarget (packPort a t n m) = t := by
  apply BitVec.eq_of_getLsbD_eq; intro i hi
  simp only [portTarget, packPort, BitVec.getLsbD_extractLsb', BitVec.getLsbD_append]
  simp [hi, show ¬ 3 + i < 3 by omega]

@[simp] theorem portNrfsM1_packPort (a : BitVec 3) (t : BitVec 2) (n : BitVec 4) (m : BitVec 14) :
    portNrfsM1 (packPort a t n m) = n := by
  apply BitVec.eq_of_getLsbD_eq; intro i hi
  simp only [portNrfsM1, packPort, BitVec.getLsbD_extractLsb', BitVec.getLsbD_append]
  simp [hi, show ¬ 5 + i < 3 by omega, show ¬ 5 + i - 3 < 2 by omega, show 5 + i - 3 - 2 = i by omega]

@[simp] theorem portMrd_packPort (a : BitVec 3) (t : BitVec 2) (n : BitVec 4) (m : BitVec 14) :
    portMrd (packPort a t n m) = m := by
  apply BitVec.eq_of_getLsbD_eq; intro i hi
  simp only [portMrd, packPort, BitVec.getLsbD_extractLsb', BitVec.getLsbD_append]
  simp [hi, show ¬ 9 + i < 3 by omega, show ¬ 9 + i - 3 < 2 by omega, show ¬ 9 + i - 3 - 2 < 4 by omega,
    show 9 + i - 3 - 2 - 4 = i by omega]

@[simp] theorem packPort_fields (w : PortWord) :
    packPort (portMode w) (portTarget w) (portNrfsM1 w) (portMrd w) = w := by
  apply BitVec.eq_of_getLsbD_eq; intro i hi
  simp only [portMode, portTarget, portNrfsM1, portMrd, packPort, BitVec.getLsbD_extractLsb', BitVec.getLsbD_append]
  split
  · simp [*]
  · split
    · simp [show 3 + (i - 3) = i by omega]
      omega
    · split
      · simp [show 5 + (i - 3 - 2) = i by omega]
        omega
      · simp [show 9 + (i - 3 - 2 - 4) = i by omega]
        omega

/-- What the decoder reads from a packed port word, mode by mode (R79). -/
theorem decodePort_packPort (a : BitVec 3) (t : BitVec 2) (n : BitVec 4) (m : BitVec 14) :
    decodePort (packPort a t n m) =
      match a.toNat with
      | 0 => .portNormal t n m
      | 1 => .portClkEnable t n m
      | 2 => .portPall t n m
      | 3 => .portAutorefresh t n m
      | 4 => .portLoadMode t n m
      | 5 => .portSelfRefresh t n m
      | 6 => .portPowerDown t n m
      | _ => .portRsvd t n m := by
  simp only [decodePort, portMode_packPort, portTarget_packPort, portNrfsM1_packPort, portMrd_packPort] <;> rfl

/-- A mode is one of the eight of R79. -/
theorem mode_cases (a : BitVec 3) : a = 0 ∨ a = 1 ∨ a = 2 ∨ a = 3 ∨ a = 4 ∨ a = 5 ∨ a = 6 ∨ a = 7 := by
  revert a; decide

/-- The four byte lanes of a word put together again (R56). -/
theorem byteLanes_word (w : Word) : byteLane w 3 ++ byteLane w 2 ++ byteLane w 1 ++ byteLane w 0 = w := by
  apply BitVec.eq_of_getLsbD_eq; intro i hi
  simp only [byteLane, BitVec.getLsbD_append, BitVec.getLsbD_extractLsb']
  split
  · simp [*]
  · split
    · simp [show 8 + (i - 8) = i by omega]
      omega
    · split
      · simp [show 16 + (i - 8 - 8) = i by omega]
        omega
      · simp [show 24 + (i - 8 - 8 - 8) = i by omega]
        omega

end Sys2Proof
end

