-- ==== Sys2Proof/Laws/State.lean ====
section
/-! SUPPORT. Each named update of the state, field by field: what it writes, and that it leaves every other field alone. -/

namespace Sys2Proof.Machine

open Sys2Proof

variable (s : State)

/-! `State.record` -/

@[simp] theorem record_params (e : PortEvent) : (s.record e).params = s.params := rfl
@[simp] theorem record_attached (e : PortEvent) : (s.record e).attached = s.attached := rfl
@[simp] theorem record_rejected (e : PortEvent) : (s.record e).rejected = s.rejected := rfl
@[simp] theorem record_result (e : PortEvent) : (s.record e).result = s.result := rfl
@[simp] theorem record_resval (e : PortEvent) : (s.record e).resval = s.resval := rfl
@[simp] theorem record_cfg0 (e : PortEvent) : (s.record e).cfg0 = s.cfg0 := rfl
@[simp] theorem record_cfg1 (e : PortEvent) : (s.record e).cfg1 = s.cfg1 := rfl
@[simp] theorem record_mrraw (e : PortEvent) : (s.record e).mrraw = s.mrraw := rfl
@[simp] theorem record_scmd (e : PortEvent) : (s.record e).scmd = s.scmd := rfl
@[simp] theorem record_offset (e : PortEvent) : (s.record e).offset = s.offset := rfl
@[simp] theorem record_len (e : PortEvent) : (s.record e).len = s.len := rfl
@[simp] theorem record_buf (e : PortEvent) : (s.record e).buf = s.buf := rfl
@[simp] theorem record_clkmhz (e : PortEvent) : (s.record e).clkmhz = s.clkmhz := rfl
@[simp] theorem record_refms (e : PortEvent) : (s.record e).refms = s.refms := rfl
@[simp] theorem record_cfga0 (e : PortEvent) : (s.record e).cfga0 = s.cfga0 := rfl
@[simp] theorem record_cfga1 (e : PortEvent) : (s.record e).cfga1 = s.cfga1 := rfl
@[simp] theorem record_fsm (e : PortEvent) : (s.record e).fsm = s.fsm := rfl
@[simp] theorem record_cphase (e : PortEvent) : (s.record e).cphase = s.cphase := rfl
@[simp] theorem record_dcnt (e : PortEvent) : (s.record e).dcnt = s.dcnt := rfl
@[simp] theorem record_lCfg0 (e : PortEvent) : (s.record e).lCfg0 = s.lCfg0 := rfl
@[simp] theorem record_lCfg1 (e : PortEvent) : (s.record e).lCfg1 = s.lCfg1 := rfl
@[simp] theorem record_lMr (e : PortEvent) : (s.record e).lMr = s.lMr := rfl
@[simp] theorem record_lScmd (e : PortEvent) : (s.record e).lScmd = s.lScmd := rfl
@[simp] theorem record_lTgt (e : PortEvent) : (s.record e).lTgt = s.lTgt := rfl
@[simp] theorem record_mrcas (e : PortEvent) : (s.record e).mrcas = s.mrcas := rfl
@[simp] theorem record_ctlOut (e : PortEvent) : (s.record e).ctlOut = s.ctlOut := rfl
@[simp] theorem record_ctlreg (e : PortEvent) : (s.record e).ctlreg = s.ctlreg := rfl
@[simp] theorem record_inputs (e : PortEvent) : (s.record e).inputs = s.inputs := rfl
@[simp] theorem record_draws (e : PortEvent) : (s.record e).draws = s.draws := rfl
@[simp] theorem record_trace (e : PortEvent) : (s.record e).trace = e :: s.trace := rfl

/-! `State.reject` -/

@[simp] theorem reject_params : (s.reject).params = s.params := rfl
@[simp] theorem reject_attached : (s.reject).attached = s.attached := rfl
@[simp] theorem reject_rejected : (s.reject).rejected = true := rfl
@[simp] theorem reject_result : (s.reject).result = s.result := rfl
@[simp] theorem reject_resval : (s.reject).resval = s.resval := rfl
@[simp] theorem reject_cfg0 : (s.reject).cfg0 = s.cfg0 := rfl
@[simp] theorem reject_cfg1 : (s.reject).cfg1 = s.cfg1 := rfl
@[simp] theorem reject_mrraw : (s.reject).mrraw = s.mrraw := rfl
@[simp] theorem reject_scmd : (s.reject).scmd = s.scmd := rfl
@[simp] theorem reject_offset : (s.reject).offset = s.offset := rfl
@[simp] theorem reject_len : (s.reject).len = s.len := rfl
@[simp] theorem reject_buf : (s.reject).buf = s.buf := rfl
@[simp] theorem reject_clkmhz : (s.reject).clkmhz = s.clkmhz := rfl
@[simp] theorem reject_refms : (s.reject).refms = s.refms := rfl
@[simp] theorem reject_cfga0 : (s.reject).cfga0 = s.cfga0 := rfl
@[simp] theorem reject_cfga1 : (s.reject).cfga1 = s.cfga1 := rfl
@[simp] theorem reject_fsm : (s.reject).fsm = s.fsm := rfl
@[simp] theorem reject_cphase : (s.reject).cphase = s.cphase := rfl
@[simp] theorem reject_dcnt : (s.reject).dcnt = s.dcnt := rfl
@[simp] theorem reject_lCfg0 : (s.reject).lCfg0 = s.lCfg0 := rfl
@[simp] theorem reject_lCfg1 : (s.reject).lCfg1 = s.lCfg1 := rfl
@[simp] theorem reject_lMr : (s.reject).lMr = s.lMr := rfl
@[simp] theorem reject_lScmd : (s.reject).lScmd = s.lScmd := rfl
@[simp] theorem reject_lTgt : (s.reject).lTgt = s.lTgt := rfl
@[simp] theorem reject_mrcas : (s.reject).mrcas = s.mrcas := rfl
@[simp] theorem reject_ctlOut : (s.reject).ctlOut = s.ctlOut := rfl
@[simp] theorem reject_ctlreg : (s.reject).ctlreg = s.ctlreg := rfl
@[simp] theorem reject_inputs : (s.reject).inputs = s.inputs := rfl
@[simp] theorem reject_draws : (s.reject).draws = s.draws := rfl
@[simp] theorem reject_trace : (s.reject).trace = s.trace := rfl

/-! `State.clearResult` -/

@[simp] theorem clearResult_params (op : BitVec 4) : (s.clearResult op).params = s.params := rfl
@[simp] theorem clearResult_attached (op : BitVec 4) : (s.clearResult op).attached = s.attached := rfl
@[simp] theorem clearResult_rejected (op : BitVec 4) : (s.clearResult op).rejected = s.rejected := rfl
@[simp] theorem clearResult_result (op : BitVec 4) : (s.clearResult op).result = resultOfOp op := rfl
@[simp] theorem clearResult_resval (op : BitVec 4) : (s.clearResult op).resval = 0 := rfl
@[simp] theorem clearResult_cfg0 (op : BitVec 4) : (s.clearResult op).cfg0 = s.cfg0 := rfl
@[simp] theorem clearResult_cfg1 (op : BitVec 4) : (s.clearResult op).cfg1 = s.cfg1 := rfl
@[simp] theorem clearResult_mrraw (op : BitVec 4) : (s.clearResult op).mrraw = s.mrraw := rfl
@[simp] theorem clearResult_scmd (op : BitVec 4) : (s.clearResult op).scmd = s.scmd := rfl
@[simp] theorem clearResult_offset (op : BitVec 4) : (s.clearResult op).offset = s.offset := rfl
@[simp] theorem clearResult_len (op : BitVec 4) : (s.clearResult op).len = s.len := rfl
@[simp] theorem clearResult_buf (op : BitVec 4) : (s.clearResult op).buf = s.buf := rfl
@[simp] theorem clearResult_clkmhz (op : BitVec 4) : (s.clearResult op).clkmhz = s.clkmhz := rfl
@[simp] theorem clearResult_refms (op : BitVec 4) : (s.clearResult op).refms = s.refms := rfl
@[simp] theorem clearResult_cfga0 (op : BitVec 4) : (s.clearResult op).cfga0 = s.cfga0 := rfl
@[simp] theorem clearResult_cfga1 (op : BitVec 4) : (s.clearResult op).cfga1 = s.cfga1 := rfl
@[simp] theorem clearResult_fsm (op : BitVec 4) : (s.clearResult op).fsm = s.fsm := rfl
@[simp] theorem clearResult_cphase (op : BitVec 4) : (s.clearResult op).cphase = s.cphase := rfl
@[simp] theorem clearResult_dcnt (op : BitVec 4) : (s.clearResult op).dcnt = s.dcnt := rfl
@[simp] theorem clearResult_lCfg0 (op : BitVec 4) : (s.clearResult op).lCfg0 = s.lCfg0 := rfl
@[simp] theorem clearResult_lCfg1 (op : BitVec 4) : (s.clearResult op).lCfg1 = s.lCfg1 := rfl
@[simp] theorem clearResult_lMr (op : BitVec 4) : (s.clearResult op).lMr = s.lMr := rfl
@[simp] theorem clearResult_lScmd (op : BitVec 4) : (s.clearResult op).lScmd = s.lScmd := rfl
@[simp] theorem clearResult_lTgt (op : BitVec 4) : (s.clearResult op).lTgt = s.lTgt := rfl
@[simp] theorem clearResult_mrcas (op : BitVec 4) : (s.clearResult op).mrcas = s.mrcas := rfl
@[simp] theorem clearResult_ctlOut (op : BitVec 4) : (s.clearResult op).ctlOut = s.ctlOut := rfl
@[simp] theorem clearResult_ctlreg (op : BitVec 4) : (s.clearResult op).ctlreg = s.ctlreg := rfl
@[simp] theorem clearResult_inputs (op : BitVec 4) : (s.clearResult op).inputs = s.inputs := rfl
@[simp] theorem clearResult_draws (op : BitVec 4) : (s.clearResult op).draws = s.draws := rfl
@[simp] theorem clearResult_trace (op : BitVec 4) : (s.clearResult op).trace = s.trace := rfl

/-! `State.finish` -/

@[simp] theorem finish_params (c : StatusCode) (r : Reason) : (s.finish c r).params = s.params := rfl
@[simp] theorem finish_attached (c : StatusCode) (r : Reason) : (s.finish c r).attached = s.attached := rfl
@[simp] theorem finish_rejected (c : StatusCode) (r : Reason) : (s.finish c r).rejected = s.rejected := rfl
@[simp] theorem finish_result (c : StatusCode) (r : Reason) : (s.finish c r).result = { s.result with code := c, reason := r } := rfl
@[simp] theorem finish_resval (c : StatusCode) (r : Reason) : (s.finish c r).resval = s.resval := rfl
@[simp] theorem finish_cfg0 (c : StatusCode) (r : Reason) : (s.finish c r).cfg0 = s.cfg0 := rfl
@[simp] theorem finish_cfg1 (c : StatusCode) (r : Reason) : (s.finish c r).cfg1 = s.cfg1 := rfl
@[simp] theorem finish_mrraw (c : StatusCode) (r : Reason) : (s.finish c r).mrraw = s.mrraw := rfl
@[simp] theorem finish_scmd (c : StatusCode) (r : Reason) : (s.finish c r).scmd = s.scmd := rfl
@[simp] theorem finish_offset (c : StatusCode) (r : Reason) : (s.finish c r).offset = s.offset := rfl
@[simp] theorem finish_len (c : StatusCode) (r : Reason) : (s.finish c r).len = s.len := rfl
@[simp] theorem finish_buf (c : StatusCode) (r : Reason) : (s.finish c r).buf = s.buf := rfl
@[simp] theorem finish_clkmhz (c : StatusCode) (r : Reason) : (s.finish c r).clkmhz = s.clkmhz := rfl
@[simp] theorem finish_refms (c : StatusCode) (r : Reason) : (s.finish c r).refms = s.refms := rfl
@[simp] theorem finish_cfga0 (c : StatusCode) (r : Reason) : (s.finish c r).cfga0 = s.cfga0 := rfl
@[simp] theorem finish_cfga1 (c : StatusCode) (r : Reason) : (s.finish c r).cfga1 = s.cfga1 := rfl
@[simp] theorem finish_fsm (c : StatusCode) (r : Reason) : (s.finish c r).fsm = .idle := rfl
@[simp] theorem finish_cphase (c : StatusCode) (r : Reason) : (s.finish c r).cphase = s.cphase := rfl
@[simp] theorem finish_dcnt (c : StatusCode) (r : Reason) : (s.finish c r).dcnt = s.dcnt := rfl
@[simp] theorem finish_lCfg0 (c : StatusCode) (r : Reason) : (s.finish c r).lCfg0 = s.lCfg0 := rfl
@[simp] theorem finish_lCfg1 (c : StatusCode) (r : Reason) : (s.finish c r).lCfg1 = s.lCfg1 := rfl
@[simp] theorem finish_lMr (c : StatusCode) (r : Reason) : (s.finish c r).lMr = s.lMr := rfl
@[simp] theorem finish_lScmd (c : StatusCode) (r : Reason) : (s.finish c r).lScmd = s.lScmd := rfl
@[simp] theorem finish_lTgt (c : StatusCode) (r : Reason) : (s.finish c r).lTgt = s.lTgt := rfl
@[simp] theorem finish_mrcas (c : StatusCode) (r : Reason) : (s.finish c r).mrcas = s.mrcas := rfl
@[simp] theorem finish_ctlOut (c : StatusCode) (r : Reason) : (s.finish c r).ctlOut = s.ctlOut := rfl
@[simp] theorem finish_ctlreg (c : StatusCode) (r : Reason) : (s.finish c r).ctlreg = s.ctlreg := rfl
@[simp] theorem finish_inputs (c : StatusCode) (r : Reason) : (s.finish c r).inputs = s.inputs := rfl
@[simp] theorem finish_draws (c : StatusCode) (r : Reason) : (s.finish c r).draws = s.draws := rfl
@[simp] theorem finish_trace (c : StatusCode) (r : Reason) : (s.finish c r).trace = s.trace := rfl

/-! `State.start` -/

@[simp] theorem start_params (f : Fsm) : (s.start f).params = s.params := rfl
@[simp] theorem start_attached (f : Fsm) : (s.start f).attached = s.attached := rfl
@[simp] theorem start_rejected (f : Fsm) : (s.start f).rejected = s.rejected := rfl
@[simp] theorem start_result (f : Fsm) : (s.start f).result = { s.result with code := .busy } := rfl
@[simp] theorem start_resval (f : Fsm) : (s.start f).resval = s.resval := rfl
@[simp] theorem start_cfg0 (f : Fsm) : (s.start f).cfg0 = s.cfg0 := rfl
@[simp] theorem start_cfg1 (f : Fsm) : (s.start f).cfg1 = s.cfg1 := rfl
@[simp] theorem start_mrraw (f : Fsm) : (s.start f).mrraw = s.mrraw := rfl
@[simp] theorem start_scmd (f : Fsm) : (s.start f).scmd = s.scmd := rfl
@[simp] theorem start_offset (f : Fsm) : (s.start f).offset = s.offset := rfl
@[simp] theorem start_len (f : Fsm) : (s.start f).len = s.len := rfl
@[simp] theorem start_buf (f : Fsm) : (s.start f).buf = s.buf := rfl
@[simp] theorem start_clkmhz (f : Fsm) : (s.start f).clkmhz = s.clkmhz := rfl
@[simp] theorem start_refms (f : Fsm) : (s.start f).refms = s.refms := rfl
@[simp] theorem start_cfga0 (f : Fsm) : (s.start f).cfga0 = s.cfga0 := rfl
@[simp] theorem start_cfga1 (f : Fsm) : (s.start f).cfga1 = s.cfga1 := rfl
@[simp] theorem start_fsm (f : Fsm) : (s.start f).fsm = f := rfl
@[simp] theorem start_cphase (f : Fsm) : (s.start f).cphase = .enter := rfl
@[simp] theorem start_dcnt (f : Fsm) : (s.start f).dcnt = s.dcnt := rfl
@[simp] theorem start_lCfg0 (f : Fsm) : (s.start f).lCfg0 = s.lCfg0 := rfl
@[simp] theorem start_lCfg1 (f : Fsm) : (s.start f).lCfg1 = s.lCfg1 := rfl
@[simp] theorem start_lMr (f : Fsm) : (s.start f).lMr = s.lMr := rfl
@[simp] theorem start_lScmd (f : Fsm) : (s.start f).lScmd = s.lScmd := rfl
@[simp] theorem start_lTgt (f : Fsm) : (s.start f).lTgt = s.lTgt := rfl
@[simp] theorem start_mrcas (f : Fsm) : (s.start f).mrcas = s.mrcas := rfl
@[simp] theorem start_ctlOut (f : Fsm) : (s.start f).ctlOut = s.ctlOut := rfl
@[simp] theorem start_ctlreg (f : Fsm) : (s.start f).ctlreg = s.ctlreg := rfl
@[simp] theorem start_inputs (f : Fsm) : (s.start f).inputs = s.inputs := rfl
@[simp] theorem start_draws (f : Fsm) : (s.start f).draws = s.draws := rfl
@[simp] theorem start_trace (f : Fsm) : (s.start f).trace = s.trace := rfl

/-! `State.enter` -/

@[simp] theorem enter_params (f : Fsm) : (s.enter f).params = s.params := rfl
@[simp] theorem enter_attached (f : Fsm) : (s.enter f).attached = s.attached := rfl
@[simp] theorem enter_rejected (f : Fsm) : (s.enter f).rejected = s.rejected := rfl
@[simp] theorem enter_result (f : Fsm) : (s.enter f).result = s.result := rfl
@[simp] theorem enter_resval (f : Fsm) : (s.enter f).resval = s.resval := rfl
@[simp] theorem enter_cfg0 (f : Fsm) : (s.enter f).cfg0 = s.cfg0 := rfl
@[simp] theorem enter_cfg1 (f : Fsm) : (s.enter f).cfg1 = s.cfg1 := rfl
@[simp] theorem enter_mrraw (f : Fsm) : (s.enter f).mrraw = s.mrraw := rfl
@[simp] theorem enter_scmd (f : Fsm) : (s.enter f).scmd = s.scmd := rfl
@[simp] theorem enter_offset (f : Fsm) : (s.enter f).offset = s.offset := rfl
@[simp] theorem enter_len (f : Fsm) : (s.enter f).len = s.len := rfl
@[simp] theorem enter_buf (f : Fsm) : (s.enter f).buf = s.buf := rfl
@[simp] theorem enter_clkmhz (f : Fsm) : (s.enter f).clkmhz = s.clkmhz := rfl
@[simp] theorem enter_refms (f : Fsm) : (s.enter f).refms = s.refms := rfl
@[simp] theorem enter_cfga0 (f : Fsm) : (s.enter f).cfga0 = s.cfga0 := rfl
@[simp] theorem enter_cfga1 (f : Fsm) : (s.enter f).cfga1 = s.cfga1 := rfl
@[simp] theorem enter_fsm (f : Fsm) : (s.enter f).fsm = f := rfl
@[simp] theorem enter_cphase (f : Fsm) : (s.enter f).cphase = .enter := rfl
@[simp] theorem enter_dcnt (f : Fsm) : (s.enter f).dcnt = s.dcnt := rfl
@[simp] theorem enter_lCfg0 (f : Fsm) : (s.enter f).lCfg0 = s.lCfg0 := rfl
@[simp] theorem enter_lCfg1 (f : Fsm) : (s.enter f).lCfg1 = s.lCfg1 := rfl
@[simp] theorem enter_lMr (f : Fsm) : (s.enter f).lMr = s.lMr := rfl
@[simp] theorem enter_lScmd (f : Fsm) : (s.enter f).lScmd = s.lScmd := rfl
@[simp] theorem enter_lTgt (f : Fsm) : (s.enter f).lTgt = s.lTgt := rfl
@[simp] theorem enter_mrcas (f : Fsm) : (s.enter f).mrcas = s.mrcas := rfl
@[simp] theorem enter_ctlOut (f : Fsm) : (s.enter f).ctlOut = s.ctlOut := rfl
@[simp] theorem enter_ctlreg (f : Fsm) : (s.enter f).ctlreg = s.ctlreg := rfl
@[simp] theorem enter_inputs (f : Fsm) : (s.enter f).inputs = s.inputs := rfl
@[simp] theorem enter_draws (f : Fsm) : (s.enter f).draws = s.draws := rfl
@[simp] theorem enter_trace (f : Fsm) : (s.enter f).trace = s.trace := rfl

/-! `State.detach` -/

@[simp] theorem detach_params : (s.detach).params = s.params := rfl
@[simp] theorem detach_attached : (s.detach).attached = false := rfl
@[simp] theorem detach_rejected : (s.detach).rejected = s.rejected := rfl
@[simp] theorem detach_result : (s.detach).result = s.result := rfl
@[simp] theorem detach_resval : (s.detach).resval = s.resval := rfl
@[simp] theorem detach_cfg0 : (s.detach).cfg0 = s.cfg0 := rfl
@[simp] theorem detach_cfg1 : (s.detach).cfg1 = s.cfg1 := rfl
@[simp] theorem detach_mrraw : (s.detach).mrraw = s.mrraw := rfl
@[simp] theorem detach_scmd : (s.detach).scmd = s.scmd := rfl
@[simp] theorem detach_offset : (s.detach).offset = s.offset := rfl
@[simp] theorem detach_len : (s.detach).len = s.len := rfl
@[simp] theorem detach_buf : (s.detach).buf = s.buf := rfl
@[simp] theorem detach_clkmhz : (s.detach).clkmhz = s.clkmhz := rfl
@[simp] theorem detach_refms : (s.detach).refms = s.refms := rfl
@[simp] theorem detach_cfga0 : (s.detach).cfga0 = 0 := rfl
@[simp] theorem detach_cfga1 : (s.detach).cfga1 = 0 := rfl
@[simp] theorem detach_fsm : (s.detach).fsm = s.fsm := rfl
@[simp] theorem detach_cphase : (s.detach).cphase = s.cphase := rfl
@[simp] theorem detach_dcnt : (s.detach).dcnt = s.dcnt := rfl
@[simp] theorem detach_lCfg0 : (s.detach).lCfg0 = s.lCfg0 := rfl
@[simp] theorem detach_lCfg1 : (s.detach).lCfg1 = s.lCfg1 := rfl
@[simp] theorem detach_lMr : (s.detach).lMr = s.lMr := rfl
@[simp] theorem detach_lScmd : (s.detach).lScmd = s.lScmd := rfl
@[simp] theorem detach_lTgt : (s.detach).lTgt = s.lTgt := rfl
@[simp] theorem detach_mrcas : (s.detach).mrcas = s.mrcas := rfl
@[simp] theorem detach_ctlOut : (s.detach).ctlOut = s.ctlOut := rfl
@[simp] theorem detach_ctlreg : (s.detach).ctlreg = s.ctlreg := rfl
@[simp] theorem detach_inputs : (s.detach).inputs = s.inputs := rfl
@[simp] theorem detach_draws : (s.detach).draws = s.draws := rfl
@[simp] theorem detach_trace : (s.detach).trace = s.trace := rfl

/-! `State.initFail` -/

@[simp] theorem initFail_params (n : BitVec 3) : (s.initFail n).params = s.params := rfl
@[simp] theorem initFail_attached (n : BitVec 3) : (s.initFail n).attached = false := rfl
@[simp] theorem initFail_rejected (n : BitVec 3) : (s.initFail n).rejected = s.rejected := rfl
@[simp] theorem initFail_result (n : BitVec 3) : (s.initFail n).result = { s.result with code := .error, reason := .none, step := n } := rfl
@[simp] theorem initFail_resval (n : BitVec 3) : (s.initFail n).resval = s.resval := rfl
@[simp] theorem initFail_cfg0 (n : BitVec 3) : (s.initFail n).cfg0 = s.cfg0 := rfl
@[simp] theorem initFail_cfg1 (n : BitVec 3) : (s.initFail n).cfg1 = s.cfg1 := rfl
@[simp] theorem initFail_mrraw (n : BitVec 3) : (s.initFail n).mrraw = s.mrraw := rfl
@[simp] theorem initFail_scmd (n : BitVec 3) : (s.initFail n).scmd = s.scmd := rfl
@[simp] theorem initFail_offset (n : BitVec 3) : (s.initFail n).offset = s.offset := rfl
@[simp] theorem initFail_len (n : BitVec 3) : (s.initFail n).len = s.len := rfl
@[simp] theorem initFail_buf (n : BitVec 3) : (s.initFail n).buf = s.buf := rfl
@[simp] theorem initFail_clkmhz (n : BitVec 3) : (s.initFail n).clkmhz = s.clkmhz := rfl
@[simp] theorem initFail_refms (n : BitVec 3) : (s.initFail n).refms = s.refms := rfl
@[simp] theorem initFail_cfga0 (n : BitVec 3) : (s.initFail n).cfga0 = 0 := rfl
@[simp] theorem initFail_cfga1 (n : BitVec 3) : (s.initFail n).cfga1 = 0 := rfl
@[simp] theorem initFail_fsm (n : BitVec 3) : (s.initFail n).fsm = .idle := rfl
@[simp] theorem initFail_cphase (n : BitVec 3) : (s.initFail n).cphase = s.cphase := rfl
@[simp] theorem initFail_dcnt (n : BitVec 3) : (s.initFail n).dcnt = s.dcnt := rfl
@[simp] theorem initFail_lCfg0 (n : BitVec 3) : (s.initFail n).lCfg0 = s.lCfg0 := rfl
@[simp] theorem initFail_lCfg1 (n : BitVec 3) : (s.initFail n).lCfg1 = s.lCfg1 := rfl
@[simp] theorem initFail_lMr (n : BitVec 3) : (s.initFail n).lMr = s.lMr := rfl
@[simp] theorem initFail_lScmd (n : BitVec 3) : (s.initFail n).lScmd = s.lScmd := rfl
@[simp] theorem initFail_lTgt (n : BitVec 3) : (s.initFail n).lTgt = s.lTgt := rfl
@[simp] theorem initFail_mrcas (n : BitVec 3) : (s.initFail n).mrcas = s.mrcas := rfl
@[simp] theorem initFail_ctlOut (n : BitVec 3) : (s.initFail n).ctlOut = s.ctlOut := rfl
@[simp] theorem initFail_ctlreg (n : BitVec 3) : (s.initFail n).ctlreg = s.ctlreg := rfl
@[simp] theorem initFail_inputs (n : BitVec 3) : (s.initFail n).inputs = s.inputs := rfl
@[simp] theorem initFail_draws (n : BitVec 3) : (s.initFail n).draws = s.draws := rfl
@[simp] theorem initFail_trace (n : BitVec 3) : (s.initFail n).trace = s.trace := rfl

/-! `State.advance` -/

@[simp] theorem advance_params : (s.advance).params = s.params := rfl
@[simp] theorem advance_attached : (s.advance).attached = s.attached := rfl
@[simp] theorem advance_rejected : (s.advance).rejected = s.rejected := rfl
@[simp] theorem advance_result : (s.advance).result = s.result := rfl
@[simp] theorem advance_resval : (s.advance).resval = s.resval := rfl
@[simp] theorem advance_cfg0 : (s.advance).cfg0 = s.cfg0 := rfl
@[simp] theorem advance_cfg1 : (s.advance).cfg1 = s.cfg1 := rfl
@[simp] theorem advance_mrraw : (s.advance).mrraw = s.mrraw := rfl
@[simp] theorem advance_scmd : (s.advance).scmd = s.scmd := rfl
@[simp] theorem advance_offset : (s.advance).offset = s.offset := rfl
@[simp] theorem advance_len : (s.advance).len = s.len := rfl
@[simp] theorem advance_buf : (s.advance).buf = s.buf := rfl
@[simp] theorem advance_clkmhz : (s.advance).clkmhz = s.clkmhz := rfl
@[simp] theorem advance_refms : (s.advance).refms = s.refms := rfl
@[simp] theorem advance_cfga0 : (s.advance).cfga0 = s.cfga0 := rfl
@[simp] theorem advance_cfga1 : (s.advance).cfga1 = s.cfga1 := rfl
@[simp] theorem advance_fsm : (s.advance).fsm = s.fsm := rfl
@[simp] theorem advance_cphase : (s.advance).cphase = s.cphase := rfl
@[simp] theorem advance_dcnt : (s.advance).dcnt = s.dcnt := rfl
@[simp] theorem advance_lCfg0 : (s.advance).lCfg0 = s.lCfg0 := rfl
@[simp] theorem advance_lCfg1 : (s.advance).lCfg1 = s.lCfg1 := rfl
@[simp] theorem advance_lMr : (s.advance).lMr = s.lMr := rfl
@[simp] theorem advance_lScmd : (s.advance).lScmd = s.lScmd := rfl
@[simp] theorem advance_lTgt : (s.advance).lTgt = s.lTgt := rfl
@[simp] theorem advance_mrcas : (s.advance).mrcas = s.mrcas := rfl
@[simp] theorem advance_ctlOut : (s.advance).ctlOut = s.ctlOut := rfl
@[simp] theorem advance_ctlreg : (s.advance).ctlreg = s.ctlreg := rfl
@[simp] theorem advance_inputs : (s.advance).inputs = s.inputs.tail := rfl
@[simp] theorem advance_draws : (s.advance).draws = s.draws := rfl
@[simp] theorem advance_trace : (s.advance).trace = s.trace := rfl

/-! `State.dropCtlOut` -/

@[simp] theorem dropCtlOut_params : (s.dropCtlOut).params = s.params := rfl
@[simp] theorem dropCtlOut_attached : (s.dropCtlOut).attached = s.attached := rfl
@[simp] theorem dropCtlOut_rejected : (s.dropCtlOut).rejected = s.rejected := rfl
@[simp] theorem dropCtlOut_result : (s.dropCtlOut).result = s.result := rfl
@[simp] theorem dropCtlOut_resval : (s.dropCtlOut).resval = s.resval := rfl
@[simp] theorem dropCtlOut_cfg0 : (s.dropCtlOut).cfg0 = s.cfg0 := rfl
@[simp] theorem dropCtlOut_cfg1 : (s.dropCtlOut).cfg1 = s.cfg1 := rfl
@[simp] theorem dropCtlOut_mrraw : (s.dropCtlOut).mrraw = s.mrraw := rfl
@[simp] theorem dropCtlOut_scmd : (s.dropCtlOut).scmd = s.scmd := rfl
@[simp] theorem dropCtlOut_offset : (s.dropCtlOut).offset = s.offset := rfl
@[simp] theorem dropCtlOut_len : (s.dropCtlOut).len = s.len := rfl
@[simp] theorem dropCtlOut_buf : (s.dropCtlOut).buf = s.buf := rfl
@[simp] theorem dropCtlOut_clkmhz : (s.dropCtlOut).clkmhz = s.clkmhz := rfl
@[simp] theorem dropCtlOut_refms : (s.dropCtlOut).refms = s.refms := rfl
@[simp] theorem dropCtlOut_cfga0 : (s.dropCtlOut).cfga0 = s.cfga0 := rfl
@[simp] theorem dropCtlOut_cfga1 : (s.dropCtlOut).cfga1 = s.cfga1 := rfl
@[simp] theorem dropCtlOut_fsm : (s.dropCtlOut).fsm = s.fsm := rfl
@[simp] theorem dropCtlOut_cphase : (s.dropCtlOut).cphase = s.cphase := rfl
@[simp] theorem dropCtlOut_dcnt : (s.dropCtlOut).dcnt = s.dcnt := rfl
@[simp] theorem dropCtlOut_lCfg0 : (s.dropCtlOut).lCfg0 = s.lCfg0 := rfl
@[simp] theorem dropCtlOut_lCfg1 : (s.dropCtlOut).lCfg1 = s.lCfg1 := rfl
@[simp] theorem dropCtlOut_lMr : (s.dropCtlOut).lMr = s.lMr := rfl
@[simp] theorem dropCtlOut_lScmd : (s.dropCtlOut).lScmd = s.lScmd := rfl
@[simp] theorem dropCtlOut_lTgt : (s.dropCtlOut).lTgt = s.lTgt := rfl
@[simp] theorem dropCtlOut_mrcas : (s.dropCtlOut).mrcas = s.mrcas := rfl
@[simp] theorem dropCtlOut_ctlOut : (s.dropCtlOut).ctlOut = none := rfl
@[simp] theorem dropCtlOut_ctlreg : (s.dropCtlOut).ctlreg = s.ctlreg := rfl
@[simp] theorem dropCtlOut_inputs : (s.dropCtlOut).inputs = s.inputs := rfl
@[simp] theorem dropCtlOut_draws : (s.dropCtlOut).draws = s.draws := rfl
@[simp] theorem dropCtlOut_trace : (s.dropCtlOut).trace = s.trace := rfl

/-! The inputs of the cycle depend on the input list alone. -/

theorem pins_congr {s t : State} (h : s.inputs = t.inputs) : s.pins = t.pins := by
  simp only [State.pins, h]

@[simp] theorem record_pins (e : PortEvent) : (s.record e).pins = s.pins := rfl
@[simp] theorem reject_pins : s.reject.pins = s.pins := rfl
@[simp] theorem clearResult_pins (op : BitVec 4) : (s.clearResult op).pins = s.pins := rfl
@[simp] theorem dropCtlOut_pins : s.dropCtlOut.pins = s.pins := rfl

theorem pins_clock {s : State} {p : Pins} {rest : List Edge} (h : s.inputs = .clock p :: rest) : s.pins = p := by
  simp only [State.pins, h]

end Sys2Proof.Machine
end

