-- ==== Sys2Proof/Laws/Ops.lean ====
section
/-! SUPPORT. What each shared operation and each part of a step can do, said once. -/

namespace Sys2Proof.Machine

open Sys2Proof

variable {s t : State}

/-! Dispatch. -/

theorem dispatch_idle (op : BitVec 4) (body : State → State) (h : s.fsm = .idle) :
    s.dispatch op body = body (s.clearResult op) := by
  simp only [State.dispatch, h, if_true]

theorem dispatch_busy (op : BitVec 4) (body : State → State) (h : s.fsm ≠ .idle) : s.dispatch op body = s.reject := by
  simp only [State.dispatch, h, if_false]

/-- What dispatch runs for a host command in `IDLE` (R68); the state itself for any other word. -/
def commandBody (i : Instr) (s : State) : State :=
  match i with
  | .nop => s
  | .init => (s.clearResult 1).acceptInit
  | .deinit => (s.clearResult 2).acceptDeinit
  | .setmr => (s.clearResult 3).acceptSetmr
  | .sendcmd => (s.clearResult 4).acceptSendcmd
  | .chkrange => (s.clearResult 5).checkOffsetLen
  | .chkaccB => (s.clearResult 6).checkAccess 1
  | .chkaccH => (s.clearResult 6).checkAccess 2
  | .chkaccW => (s.clearResult 6).checkAccess 4
  | .rsvdChkacc => (s.clearResult 6).reservedEncoding
  | .calcref => (s.clearResult 7).calcRefresh
  | .rsvd op => (s.clearResult op).reservedEncoding
  | .portNormal _ _ _ => s
  | .portClkEnable _ _ _ => s
  | .portPall _ _ _ => s
  | .portAutorefresh _ _ _ => s
  | .portLoadMode _ _ _ => s
  | .portSelfRefresh _ _ _ => s
  | .portPowerDown _ _ _ => s
  | .portRsvd _ _ _ => s

theorem exec_command_idle (i : Instr) (hi : i.format = .cmd32) (h : s.fsm = .idle) :
    exec i s = .next (commandBody i s) := by
  cases i <;> first | (simp [Instr.format] at hi; done) | skip
  case nop => simp [exec, execNop, h, commandBody]
  all_goals
    simp only [exec, execInit, execDeinit, execSetmr, execSendcmd, execChkrange, execChkaccB, execChkaccH, execChkaccW,
      execRsvdChkacc, execCalcref, execRsvd, dispatch_idle _ _ h, commandBody]

theorem exec_command_busy (i : Instr) (hi : i.format = .cmd32) (h : s.fsm ≠ .idle) : exec i s = .next s.reject := by
  cases i <;> first | (simp [Instr.format] at hi; done) | skip
  case nop => simp [exec, execNop, h]
  all_goals
    simp only [exec, execInit, execDeinit, execSetmr, execSendcmd, execChkrange, execChkaccB, execChkaccH, execChkaccW,
      execRsvdChkacc, execCalcref, execRsvd, dispatch_busy _ _ h]

theorem decodeCmd_format (w : Word) : (decodeCmd w).format = .cmd32 := by
  unfold decodeCmd
  split <;> first | rfl | skip
  split <;> rfl

/-! Controller commands. -/

/-- What a clock edge does with the port word the block holds: the transaction, but for the reserved mode. -/
theorem exec_decodePort (w : PortWord) :
    exec (decodePort w) s =
      .next (if portMode w = 7 then (if s.fsm = .sCmd then s.refuseReservedMode else s) else s.ctlCmd w) := by
  obtain ⟨a, t, n, m, rfl⟩ : ∃ a t n m, w = packPort a t n m := ⟨_, _, _, _, (packPort_fields w).symm⟩
  rw [decodePort_packPort, portMode_packPort]
  rcases mode_cases a with h | h | h | h | h | h | h | h <;> subst h <;> rfl

/-- Every word but a reserved one of `S_CMD` is of a mode the block may send (R82). -/
theorem portWord_mode {w : PortWord} (h : s.portWord = some w) (hs : s.fsm = .sCmd → portMode s.lScmd ≠ 7) :
    portMode w ≠ 7 := by
  unfold State.portWord at h
  split at h <;> first | (cases h; done) | skip
  all_goals injection h with h; subst h
  case h_7 hf => exact hs hf
  all_goals rw [portMode_packPort]; decide

theorem portWord_of_onCmdPort (h : s.fsm.onCmdPort = true) : ∃ w, s.portWord = some w := by
  unfold State.portWord
  cases hf : s.fsm <;> simp_all [Fsm.onCmdPort]

/-- The one edge of a transaction that is not its last. -/
theorem ctlCmd_enter (w : PortWord) (h : s.fsm.onCmdPort = true) (hp : s.cphase = .enter) :
    s.ctlCmd w = { s with cphase := .wait } := by
  simp only [State.ctlCmd, h, hp, if_true]

theorem ctlCmd_waiting (w : PortWord) (h : s.fsm.onCmdPort = true) (hp : s.cphase = .wait) (hd : s.pins.cmdDone = false) :
    s.ctlCmd w = s := by
  simp [State.ctlCmd, h, hp, hd]

theorem ctlCmd_done (w : PortWord) (h : s.fsm.onCmdPort = true) (hp : s.cphase = .wait) (hd : s.pins.cmdDone = true) :
    s.ctlCmd w = (s.record (.cmd w s.pins.cmdOk)).cmdResponse s.pins.cmdOk := by
  simp [State.ctlCmd, h, hp, hd]

/-- The last edge of a transaction: the answer is recorded and the state's transition taken. -/
theorem exec_decodePort_done (w : PortWord) (h : s.fsm.onCmdPort = true) (hm : portMode w ≠ 7) (hp : s.cphase = .wait)
    (hd : s.pins.cmdDone = true) :
    exec (decodePort w) s = .next ((s.record (.cmd w s.pins.cmdOk)).cmdResponse s.pins.cmdOk) := by
  rw [exec_decodePort, if_neg hm, ctlCmd_done w h hp hd]

/-! The controller's register. -/

/-- The controller's part of an edge writes `CTLREG` and the count of free words only. -/
theorem ctlEdge_frame (out other : Option Word) :
    s.ctlEdge out other = { s with ctlreg := (s.ctlEdge out other).ctlreg, draws := (s.ctlEdge out other).draws } := by
  cases out <;> cases other <;> rfl

/-- The controller's part of an edge depends on `CTLREG` and the count of free words only. -/
theorem ctlEdge_congr (out other : Option Word) (h : s.ctlreg = t.ctlreg) (hd : s.draws = t.draws) :
    (s.ctlEdge out other).ctlreg = (t.ctlEdge out other).ctlreg ∧
      (s.ctlEdge out other).draws = (t.ctlEdge out other).draws := by
  cases out <;> cases other <;> simp [State.ctlEdge, h, hd]

@[simp] theorem ctlEdge_none : s.ctlEdge none none = s := rfl

theorem ctlEdge_draws_le (out other : Option Word) : s.draws ≤ (s.ctlEdge out other).draws := by
  cases out <;> cases other <;> simp [State.ctlEdge]

/-! The host's part. -/

/-- What the host's part of an edge can do when it answers a next state. -/
theorem hostPhase_cases (h : s.hostPhase = .next t) :
    (s.pins.host = none ∧ t = s) ∨
    (∃ off, s.pins.host = some (.read .word off) ∧ off % 4 = 0 ∧ t = s.hostRead off) ∨
    (∃ off v, s.pins.host = some (.write .word off v) ∧ off % 4 = 0 ∧ off ≠ 0 ∧ t = s.hostWrite off v) ∨
    (∃ v, s.pins.host = some (.write .word 0 v) ∧ exec (decodeCmd v) s = .next t) := by
  unfold State.hostPhase at h
  split at h
  case h_1 hp => injection h with h; exact .inl ⟨hp, h.symm⟩
  case h_2 w off hp =>
    split at h
    · cases h
    · rename_i hw
      split at h
      · cases h
      · rename_i ho
        injection h with h
        exact .inr (.inl ⟨off, by rw [hp, not_not.mp hw], not_not.mp ho, h.symm⟩)
  case h_3 w off v hp =>
    split at h
    · cases h
    · rename_i hw
      split at h
      · cases h
      · rename_i ho
        split at h
        · rename_i h0
          exact .inr (.inr (.inr ⟨v, by rw [hp, not_not.mp hw, h0], h⟩))
        · rename_i h0
          injection h with h
          exact .inr (.inr (.inl ⟨off, v, by rw [hp, not_not.mp hw], not_not.mp ho, h0, h.symm⟩))

/-- A host read touches the port events and the count of free words only. -/
theorem hostRead_frame (off : Nat) :
    s.hostRead off = { s with trace := (s.hostRead off).trace, draws := (s.hostRead off).draws } := by
  unfold State.hostRead
  split
  · rfl
  · split <;> rfl

theorem hostRead_trace (off : Nat) : ∃ v, (s.hostRead off).trace = .hostRead off v :: s.trace := by
  unfold State.hostRead
  split
  · exact ⟨_, rfl⟩
  · split <;> exact ⟨_, rfl⟩

theorem hostRead_draws_le (off : Nat) : s.draws ≤ (s.hostRead off).draws := by
  unfold State.hostRead
  split
  · exact Nat.le_refl _
  · split
    · exact Nat.le_refl _
    · exact Nat.le_succ _

/-- A host write touches the staged registers and `REJECTED` only. -/
theorem hostWrite_frame (off : Nat) (v : Word) :
    s.hostWrite off v = { s with
      rejected := (s.hostWrite off v).rejected, cfg0 := (s.hostWrite off v).cfg0, cfg1 := (s.hostWrite off v).cfg1
      mrraw := (s.hostWrite off v).mrraw, scmd := (s.hostWrite off v).scmd, offset := (s.hostWrite off v).offset
      len := (s.hostWrite off v).len, buf := (s.hostWrite off v).buf, clkmhz := (s.hostWrite off v).clkmhz
      refms := (s.hostWrite off v).refms } := by
  unfold State.hostWrite
  repeat' split
  all_goals rfl

/-- While the block is busy the host's part of an edge touches the staged registers, `REJECTED`, the port events and the count
of free words only: nothing that the block's part reads. -/
theorem hostPhase_busy (hb : s.fsm ≠ .idle) (h : s.hostPhase = .next t) :
    t = { s with
      rejected := t.rejected, cfg0 := t.cfg0, cfg1 := t.cfg1, mrraw := t.mrraw, scmd := t.scmd, offset := t.offset
      len := t.len, buf := t.buf, clkmhz := t.clkmhz, refms := t.refms, draws := t.draws, trace := t.trace } := by
  rcases hostPhase_cases h with ⟨_, rfl⟩ | ⟨off, _, _, rfl⟩ | ⟨off, v, _, _, _, rfl⟩ | ⟨v, _, he⟩
  · rfl
  · rw [hostRead_frame]
  · rw [hostWrite_frame]
  · rw [exec_command_busy _ (decodeCmd_format v) hb] at he
    injection he with he
    subst he
    rfl

/-! The block's part. -/

/-- The block's part of an edge, as a state: it always has a next one. -/
def blockNext (f : Fsm) (s : State) : State :=
  match f with
  | .idle => s
  | .iDly => s.stepDly
  | .iRdcas => s.stepRdcas
  | .iRecon => s.stepRecon
  | .iRtr => s.stepRtr
  | .iCke | .iPall | .iAref | .iLmr | .dPd | .mLmr | .sCmd =>
    match s.portWord with
    | some w => if portMode w = 7 then (if s.fsm = .sCmd then s.refuseReservedMode else s) else s.ctlCmd w
    | none => s

theorem blockPhase_next (f : Fsm) (s : State) : s.blockPhase f = .next (blockNext f s) := by
  cases f <;> first | rfl | skip
  all_goals
    simp only [State.blockPhase, blockNext]
    cases s.portWord with
    | none => rfl
    | some w => exact exec_decodePort w

/-! A step. -/

/-- What a step can do when it answers a next state: a reset edge, or a clock edge of the three parts. -/
theorem step_cases (h : step s = .next t) :
    (∃ other rest, s.inputs = .reset other :: rest ∧ t = s.resetEdge other) ∨
    ((∀ other rest, s.inputs ≠ .reset other :: rest) ∧
      ∃ u, s.dropCtlOut.hostPhase = .next u ∧
        t = ((blockNext s.fsm u).ctlEdge s.ctlOut s.pins.ctlOther).advance) := by
  unfold step State.edge at h
  have clock (h : s.clockEdge = .next t) :
      ∃ u, s.dropCtlOut.hostPhase = .next u ∧
        t = ((blockNext s.fsm u).ctlEdge s.ctlOut s.pins.ctlOther).advance := by
    unfold State.clockEdge at h
    cases hh : s.dropCtlOut.hostPhase with
    | next u =>
      rw [hh] at h
      simp only [State.afterHost, blockPhase_next] at h
      injection h with h
      exact ⟨u, rfl, h.symm⟩
    | fault r => rw [hh] at h; cases h
    | refused r => rw [hh] at h; cases h
  split at h
  case h_1 other rest hi => injection h with h; exact .inl ⟨other, rest, hi, h.symm⟩
  case h_2 p rest hi => exact .inr ⟨fun _ _ hr => (by rw [hi] at hr; cases hr), clock h⟩
  case h_3 hi => exact .inr ⟨fun _ _ hr => (by rw [hi] at hr; cases hr), clock h⟩

/-- A clock edge whose host's part answers a next state. -/
theorem step_clock {p : Pins} {rest : List Edge} {u : State} (hi : s.inputs = .clock p :: rest)
    (hu : s.dropCtlOut.hostPhase = .next u) :
    step s = .next ((blockNext s.fsm u).ctlEdge s.ctlOut p.ctlOther).advance := by
  simp only [step, State.edge, hi, State.clockEdge, hu, State.afterHost, blockPhase_next, pins_clock hi]

/-- A clock edge with no host access. -/
theorem step_clock_quiet {p : Pins} {rest : List Edge} (hi : s.inputs = .clock p :: rest) (hp : p.host = none) :
    step s = .next ((blockNext s.fsm s.dropCtlOut).ctlEdge s.ctlOut p.ctlOther).advance := by
  apply step_clock hi
  simp only [State.hostPhase, dropCtlOut_pins, pins_clock hi, hp]

/-- A clock edge with no host access, when the block's part leaves `CTLREG`, the count of free words and the inputs alone, as
it always does. -/
theorem step_quiet {p : Pins} {rest : List Edge} {u : State} (hi : s.inputs = .clock p :: rest) (hp : p.host = none)
    (hu : blockNext s.fsm s.dropCtlOut = u) (hc : u.ctlreg = s.ctlreg) (hd : u.draws = s.draws)
    (hin : u.inputs = s.inputs) :
    step s = .next { u with
      ctlreg := (s.ctlEdge s.ctlOut p.ctlOther).ctlreg, draws := (s.ctlEdge s.ctlOut p.ctlOther).draws
      inputs := rest } := by
  rw [step_clock_quiet hi hp, hu, ctlEdge_frame]
  have := ctlEdge_congr s.ctlOut p.ctlOther hc hd
  rw [this.1, this.2]
  simp [State.advance, hin, hi]

theorem step_reset {other : Option Word} {rest : List Edge} (hi : s.inputs = .reset other :: rest) :
    step s = .next (s.resetEdge other) := by
  simp only [step, State.edge, hi]

end Sys2Proof.Machine
end

