-- ==== Sys2Proof/Laws/Frames.lean ====
section
/-! SUPPORT. The frame of each part of a step: what it can change, and so what it leaves alone. -/

namespace Sys2Proof.Machine

open Sys2Proof

variable {s t : State}

/-- An accepted command writes `RESULT`, `RESVAL`, `ATTACHED`, the latches it loads, and where it starts a sequence the state
register and the phase. -/
theorem commandBody_frame (i : Instr) (s : State) :
    commandBody i s = { s with
      attached := (commandBody i s).attached, result := (commandBody i s).result, resval := (commandBody i s).resval
      fsm := (commandBody i s).fsm, cphase := (commandBody i s).cphase, lCfg0 := (commandBody i s).lCfg0
      lCfg1 := (commandBody i s).lCfg1, lMr := (commandBody i s).lMr, lScmd := (commandBody i s).lScmd
      lTgt := (commandBody i s).lTgt } := by
  cases i <;>
    simp only [commandBody, State.acceptInit, State.acceptDeinit, State.acceptSetmr, State.acceptSendcmd,
      State.checkOffsetLen, State.checkAccess, State.reservedEncoding, State.calcRefresh] <;>
    (repeat' split) <;> rfl

/-- The host's part of an edge in `IDLE`, with a command: what the command's acceptance does. -/
theorem hostPhase_idle_command (hb : s.fsm = .idle) (v : Word) (he : exec (decodeCmd v) s = .next t) :
    t = commandBody (decodeCmd v) s := by
  rw [exec_command_idle _ (decodeCmd_format v) hb] at he
  injection he with he
  exact he.symm

/-- The host's part of an edge leaves alone the parameters, the active configuration, the delay count, the CAS latch, the
write output, `CTLREG` and the inputs. -/
theorem hostPhase_frame (h : s.hostPhase = .next t) :
    t.params = s.params ∧ t.cfga0 = s.cfga0 ∧ t.cfga1 = s.cfga1 ∧ t.dcnt = s.dcnt ∧ t.mrcas = s.mrcas ∧
      t.ctlOut = s.ctlOut ∧ t.ctlreg = s.ctlreg ∧ t.inputs = s.inputs ∧ s.draws ≤ t.draws := by
  rcases hostPhase_cases h with ⟨_, rfl⟩ | ⟨off, _, _, rfl⟩ | ⟨off, v, _, _, _, rfl⟩ | ⟨v, _, he⟩
  · simp
  · have := hostRead_draws_le (s := s) off
    rw [hostRead_frame]; simp [this]
  · rw [hostWrite_frame]; simp
  · by_cases hb : s.fsm = .idle
    · rw [hostPhase_idle_command hb v he, commandBody_frame]; simp
    · rw [exec_command_busy _ (decodeCmd_format v) hb] at he
      injection he with he
      subst he
      simp

/-- A response writes `ATTACHED`, the active configuration, `RESULT`, the state register, the phase and the delay count. -/
theorem cmdResponse_frame (ok : Bool) (s : State) :
    s.cmdResponse ok = { s with
      attached := (s.cmdResponse ok).attached, result := (s.cmdResponse ok).result, cfga0 := (s.cmdResponse ok).cfga0
      cfga1 := (s.cmdResponse ok).cfga1, fsm := (s.cmdResponse ok).fsm, cphase := (s.cmdResponse ok).cphase
      dcnt := (s.cmdResponse ok).dcnt } := by
  unfold State.cmdResponse
  cases ok <;> split <;> rfl

/-- A clock edge of a transaction writes what the response writes, the phase and the port events. -/
theorem ctlCmd_frame (w : PortWord) (s : State) :
    s.ctlCmd w = { s with
      attached := (s.ctlCmd w).attached, result := (s.ctlCmd w).result, cfga0 := (s.ctlCmd w).cfga0
      cfga1 := (s.ctlCmd w).cfga1, fsm := (s.ctlCmd w).fsm, cphase := (s.ctlCmd w).cphase, dcnt := (s.ctlCmd w).dcnt
      trace := (s.ctlCmd w).trace } := by
  unfold State.ctlCmd
  split
  · split
    · rfl
    · split
      · rw [cmdResponse_frame]; rfl
      · rfl
  · rfl

/-- The block's part of an edge leaves alone the parameters, `REJECTED`, `RESVAL`, the staged registers, the latches loaded at
acceptance but `L_MR`, `CTLREG`, the inputs and the count of free words. -/
theorem blockNext_frame (f : Fsm) (s : State) :
    blockNext f s = { s with
      attached := (blockNext f s).attached, result := (blockNext f s).result, cfga0 := (blockNext f s).cfga0
      cfga1 := (blockNext f s).cfga1, fsm := (blockNext f s).fsm, cphase := (blockNext f s).cphase
      dcnt := (blockNext f s).dcnt, lMr := (blockNext f s).lMr, mrcas := (blockNext f s).mrcas
      ctlOut := (blockNext f s).ctlOut, trace := (blockNext f s).trace } := by
  cases f
  case idle => rfl
  case iDly => simp only [blockNext, State.stepDly]; (repeat' split) <;> rfl
  case iRdcas => rfl
  case iRecon => simp only [blockNext, State.stepRecon]; split <;> rfl
  case iRtr =>
    simp only [blockNext, State.stepRtr]
    split
    · rfl
    · split
      · unfold State.rtrResponse; split <;> rfl
      · rfl
  all_goals
    simp only [blockNext]
    cases s.portWord with
    | none => rfl
    | some w =>
      simp only []
      split
      · split <;> rfl
      · rw [ctlCmd_frame]

/-- A step never changes the parameters, uses up one edge, and takes free words only in turn. -/
theorem step_frame (h : step s = .next t) : t.params = s.params ∧ t.inputs = s.inputs.tail ∧ s.draws ≤ t.draws := by
  rcases step_cases h with ⟨o, r, hi, rfl⟩ | ⟨_, u, hu, rfl⟩
  · have := ctlEdge_draws_le (s := s) s.ctlOut o
    unfold State.resetEdge
    simp only
    split
    · simp [this]
    · simp; omega
  · obtain ⟨hp, _, _, _, _, _, _, hin, hd⟩ := hostPhase_frame hu
    have hle := ctlEdge_draws_le (s := blockNext s.fsm u) s.ctlOut s.pins.ctlOther
    rw [blockNext_frame] at hle ⊢
    rw [ctlEdge_frame] at hle ⊢
    simp only [advance_params, advance_inputs, advance_draws, dropCtlOut_params, dropCtlOut_inputs, dropCtlOut_draws]
      at hp hin hd hle ⊢
    refine ⟨hp, by rw [hin], by omega⟩

end Sys2Proof.Machine
end

