-- ==== Sys2Proof/Laws/Cases.lean ====
section
/-! SUPPORT. What a step, an accepted command and the block's part of an edge can do, case by case, and what the block's part
depends on. -/

namespace Sys2Proof.Machine

open Sys2Proof

variable {s t : State}

/-! A step. -/

/-- A step that answers a next state, with the controller's part resolved: what `CTLREG` becomes when no other agent
writes. -/
theorem step_parts (h : step s = .next t) :
    (∃ other rest, s.inputs = .reset other :: rest ∧ t = s.resetEdge other) ∨
    ((∀ other rest, s.inputs ≠ .reset other :: rest) ∧
      ∃ (u : State) (k : Word) (d : Nat), s.dropCtlOut.hostPhase = .next u ∧
        t = { blockNext s.fsm u with ctlreg := k, draws := d, inputs := s.inputs.tail } ∧
        (s.ctlOut = none → s.pins.ctlOther = none → k = s.ctlreg) ∧
        (∀ v, s.ctlOut = some v → s.pins.ctlOther = none → k = v)) := by
  rcases step_cases h with h | ⟨hn, u, hu, rfl⟩
  · exact .inl h
  · obtain ⟨_, _, _, _, _, _, hk, hin, _⟩ := hostPhase_frame hu
    refine .inr ⟨hn, u, ((blockNext s.fsm u).ctlEdge s.ctlOut s.pins.ctlOther).ctlreg,
      ((blockNext s.fsm u).ctlEdge s.ctlOut s.pins.ctlOther).draws, hu, ?_, ?_, ?_⟩
    · rw [ctlEdge_frame, blockNext_frame]
      simp only [State.advance, dropCtlOut_inputs] at *
      simp [hin]
    · intro h1 h2
      rw [h1, h2]
      simp only [State.ctlEdge]
      rw [blockNext_frame]
      simpa using hk
    · intro v h1 h2
      rw [h1, h2]
      simp only [State.ctlEdge]

/-- A reset edge, with its free parts named. -/
theorem resetEdge_parts (s : State) (other : Option Word) :
    ∃ k d, s.resetEdge other = { State.reset with
      params := s.params, ctlreg := k, draws := d, inputs := s.inputs.tail, trace := s.trace } := by
  unfold State.resetEdge
  simp only
  split <;> exact ⟨_, _, rfl⟩

/-- The host's part of an edge in `IDLE`: the staged registers, `REJECTED`, the port events and the count of free words; or a
command's acceptance. -/
theorem hostPhase_idle (hb : s.fsm = .idle) (h : s.hostPhase = .next t) :
    (t = { s with
      rejected := t.rejected, cfg0 := t.cfg0, cfg1 := t.cfg1, mrraw := t.mrraw, scmd := t.scmd, offset := t.offset
      len := t.len, buf := t.buf, clkmhz := t.clkmhz, refms := t.refms, draws := t.draws, trace := t.trace }) ∨
    ∃ v, s.pins.host = some (.write .word 0 v) ∧ t = commandBody (decodeCmd v) s := by
  rcases hostPhase_cases h with ⟨_, rfl⟩ | ⟨off, _, _, rfl⟩ | ⟨off, w, _, _, _, rfl⟩ | ⟨w, hw, he⟩
  · exact .inl rfl
  · exact .inl (by rw [hostRead_frame])
  · exact .inl (by rw [hostWrite_frame])
  · exact .inr ⟨w, hw, hostPhase_idle_command hb w he⟩

/-! An accepted command. -/

/-- What an accepted command does: nothing; or an immediate end with `RESULT` and `RESVAL` written; or the start of one of the
four sequences. -/
theorem commandBody_cases (i : Instr) (hf : s.fsm = .idle) :
    commandBody i s = s ∨
    (∃ r v, commandBody i s = { s with result := r, resval := v } ∧ r.code ≠ .busy ∧ r.code ≠ .timeout ∧
      (r.reason = .none ↔ r.code ≠ .invalidParameter) ∧ (r.aligned = true → r.op = 6 ∧ r.code = .ok) ∧ r.step = 0 ∧
      r.patched = false) ∨
    (i = .init ∧ commandBody i s = { s with
      lCfg0 := s.cfg0.extractLsb' 0 14, lCfg1 := s.cfg1, attached := false
      result := { resultOfOp 1 with code := .busy }, resval := 0, fsm := .iCke, cphase := .enter }) ∨
    (i = .deinit ∧ s.attached = true ∧ commandBody i s = { s with
      lTgt := cfgTarget s.cfga0, result := { resultOfOp 2 with code := .busy }, resval := 0, fsm := .dPd
      cphase := .enter }) ∨
    (i = .setmr ∧ s.attached = true ∧ commandBody i s = { s with
      lMr := s.mrraw.extractLsb' 0 14, lTgt := cfgTarget s.cfga0, result := { resultOfOp 3 with code := .busy }
      resval := 0, fsm := .mLmr, cphase := .enter }) ∨
    (i = .sendcmd ∧ s.attached = true ∧ scmdMode s.scmd ≠ 7 ∧ commandBody i s = { s with
      lScmd := s.scmd.extractLsb' 0 23, result := { resultOfOp 4 with code := .busy }, resval := 0, fsm := .sCmd
      cphase := .enter }) := by
  have fin : ∀ (op : BitVec 4) (c : StatusCode) (r : Reason), c ≠ .busy → c ≠ .timeout →
      (r = .none ↔ c ≠ .invalidParameter) →
      ∃ r' v, (s.clearResult op).finish c r = { s with result := r', resval := v } ∧ r'.code ≠ .busy ∧
        r'.code ≠ .timeout ∧ (r'.reason = .none ↔ r'.code ≠ .invalidParameter) ∧
        (r'.aligned = true → r'.op = 6 ∧ r'.code = .ok) ∧ r'.step = 0 ∧ r'.patched = false := by
    intro op c r h1 h2 h3
    refine ⟨{ resultOfOp op with code := c, reason := r }, 0, ?_, h1, h2, h3, fun h => (by cases h), rfl, rfl⟩
    unfold State.finish State.clearResult
    rw [← hf]
  have rng : ∀ c o n : Nat, (checkRange c o n).1 ≠ .busy ∧ (checkRange c o n).1 ≠ .timeout ∧
      ((checkRange c o n).2 = .none ↔ (checkRange c o n).1 ≠ .invalidParameter) := by
    intro c o n
    unfold checkRange
    (repeat' split) <;> simp
  have acc : ∀ e : Nat, ∃ r v, (s.clearResult 6).checkAccess e = { s with result := r, resval := v } ∧ r.code ≠ .busy ∧
      r.code ≠ .timeout ∧ (r.reason = .none ↔ r.code ≠ .invalidParameter) ∧
      (r.aligned = true → r.op = 6 ∧ r.code = .ok) ∧ r.step = 0 ∧ r.patched = false := by
    intro e
    unfold State.checkAccess
    split
    · exact fin 6 .invalidParameter .nullBuffer (by decide) (by decide) (by decide)
    · obtain ⟨h1, h2, h3⟩ :=
        rng (s.clearResult 6).params.capacity (s.clearResult 6).offset.toNat ((s.clearResult 6).len.toNat * e)
      simp only []
      split
      · rename_i ho
        exact ⟨_, _, by unfold State.finish State.clearResult; rw [← hf], h1, h2, h3, fun _ => ⟨rfl, ho⟩, rfl, rfl⟩
      · exact fin 6 _ _ h1 h2 h3
  cases i with
  | init =>
    simp only [commandBody, State.acceptInit]
    split
    · exact .inr (.inr (.inl ⟨trivial, rfl⟩))
    · exact .inr (.inl (fin 1 _ _ (by decide) (by decide) (by decide)))
  | deinit =>
    simp only [commandBody, State.acceptDeinit]
    split
    · rename_i h
      exact .inr (.inr (.inr (.inl ⟨trivial, h, rfl⟩)))
    · exact .inr (.inl (fin 2 _ _ (by decide) (by decide) (by decide)))
  | setmr =>
    simp only [commandBody, State.acceptSetmr]
    split
    · rename_i h
      exact .inr (.inr (.inr (.inr (.inl ⟨trivial, h, rfl⟩))))
    · exact .inr (.inl (fin 3 _ _ (by decide) (by decide) (by decide)))
  | sendcmd =>
    simp only [commandBody, State.acceptSendcmd]
    split
    · split
      · exact .inr (.inl (fin 4 _ _ (by decide) (by decide) (by decide)))
      · rename_i h h'
        exact .inr (.inr (.inr (.inr (.inr ⟨trivial, h, h', rfl⟩))))
    · exact .inr (.inl (fin 4 _ _ (by decide) (by decide) (by decide)))
  | chkrange =>
    obtain ⟨h1, h2, h3⟩ :=
      rng (s.clearResult 5).params.capacity (s.clearResult 5).offset.toNat (s.clearResult 5).len.toNat
    exact .inr (.inl (fin 5 _ _ h1 h2 h3))
  | chkaccB => exact .inr (.inl (acc 1))
  | chkaccH => exact .inr (.inl (acc 2))
  | chkaccW => exact .inr (.inl (acc 4))
  | rsvdChkacc => exact .inr (.inl (fin 6 _ _ (by decide) (by decide) (by decide)))
  | rsvd op => exact .inr (.inl (fin op _ _ (by decide) (by decide) (by decide)))
  | calcref =>
    right; left
    simp only [commandBody, State.calcRefresh]
    split
    · exact fin 7 _ _ (by decide) (by decide) (by decide)
    · split
      · exact fin 7 _ _ (by decide) (by decide) (by decide)
      · refine ⟨{ resultOfOp 7 with code := .ok, reason := .none },
          BitVec.ofNat 32 (refreshCount s.params s.clkmhz.toNat s.refms.toNat),
          ?_, by decide, by decide, by decide, by decide, rfl, rfl⟩
        unfold State.finish State.clearResult
        rw [← hf]
  | _ => exact .inl rfl

/-! The block's part of an edge. -/

/-- The block's part of an edge in a command state: the three edges of a transaction; or, where `L_SCMD` holds the reserved
mode, its refusal. -/
theorem blockNext_onCmdPort (f : s.fsm.onCmdPort = true) :
    (∃ w, s.portWord = some w ∧ portMode w ≠ 7 ∧
      ((s.cphase = .enter ∧ blockNext s.fsm s = { s with cphase := .wait }) ∨
       (s.cphase = .wait ∧ s.pins.cmdDone = false ∧ blockNext s.fsm s = s) ∨
       (s.cphase = .wait ∧ s.pins.cmdDone = true ∧
         blockNext s.fsm s = (s.record (.cmd w s.pins.cmdOk)).cmdResponse s.pins.cmdOk))) ∨
    (s.fsm = .sCmd ∧ portMode s.lScmd = 7 ∧ blockNext s.fsm s = s.refuseReservedMode) := by
  obtain ⟨w, hw⟩ := portWord_of_onCmdPort f
  have hbn : blockNext s.fsm s =
      if portMode w = 7 then (if s.fsm = .sCmd then s.refuseReservedMode else s) else s.ctlCmd w := by
    cases hf : s.fsm <;> first | (rw [hf] at f; cases f; done) | simp only [blockNext, hw, hf]
  by_cases h7 : portMode w = 7
  · have hs : s.fsm = .sCmd := by
      by_contra hs
      exact portWord_mode hw (fun h => absurd h hs) h7
    have hl : w = s.lScmd := by
      simp only [State.portWord, hs, Option.some.injEq] at hw
      exact hw.symm
    rw [hbn, if_pos h7, if_pos hs]
    exact .inr ⟨hs, hl ▸ h7, rfl⟩
  · refine .inl ⟨w, hw, h7, ?_⟩
    rw [hbn, if_neg h7]
    cases hp : s.cphase with
    | enter => exact .inl ⟨rfl, ctlCmd_enter w f hp⟩
    | wait =>
      cases hd : s.pins.cmdDone with
      | false => exact .inr (.inl ⟨rfl, rfl, ctlCmd_waiting w f hp hd⟩)
      | true => exact .inr (.inr ⟨rfl, rfl, ctlCmd_done w f hp hd⟩)

/-- Every case of the block's part of an edge. -/
theorem blockNext_cases (s : State) :
    (s.fsm = .idle ∧ blockNext s.fsm s = s) ∨
    (s.fsm.onCmdPort = true ∧ s.cphase = .enter ∧ blockNext s.fsm s = { s with cphase := .wait }) ∨
    (s.fsm ≠ .idle ∧ blockNext s.fsm s = s) ∨
    (∃ w, s.fsm.onCmdPort = true ∧ s.cphase = .wait ∧ s.pins.cmdDone = true ∧ portMode w ≠ 7 ∧
      blockNext s.fsm s = (s.record (.cmd w s.pins.cmdOk)).cmdResponse s.pins.cmdOk) ∨
    (s.fsm = .sCmd ∧ portMode s.lScmd = 7 ∧ blockNext s.fsm s = s.refuseReservedMode) ∨
    (s.fsm = .iDly ∧ s.pins.tick = true ∧ s.dcnt = s.params.powerupDelayTicks ∧ blockNext s.fsm s = s.enter .iPall) ∨
    (s.fsm = .iDly ∧ s.pins.tick = true ∧ s.dcnt ≠ s.params.powerupDelayTicks ∧
      blockNext s.fsm s = { s with dcnt := s.dcnt + 1 }) ∨
    (s.fsm = .iRdcas ∧ blockNext s.fsm s = s.stepRdcas) ∨
    (s.fsm = .iRecon ∧ blockNext s.fsm s = s.stepRecon) ∨
    (s.fsm = .iRtr ∧ s.cphase = .enter ∧ blockNext s.fsm s = { s with cphase := .wait }) ∨
    (s.fsm = .iRtr ∧ s.cphase = .wait ∧ s.pins.rtrDone = true ∧
      blockNext s.fsm s = (s.record (.rtr s.lCfg1 s.pins.rtrOk)).rtrResponse s.pins.rtrOk) := by
  by_cases ho : s.fsm.onCmdPort = true
  · have hb : s.fsm ≠ .idle := by
      intro h
      rw [h] at ho
      cases ho
    rcases blockNext_onCmdPort ho with ⟨w, hw, h7, h | h | h⟩ | h
    · tauto
    · tauto
    · exact .inr (.inr (.inr (.inl ⟨w, ho, h.1, h.2.1, h7, h.2.2⟩)))
    · tauto
  · cases hf : s.fsm <;> first | (exfalso; rw [hf] at ho; exact ho rfl) | skip
    · exact .inl ⟨rfl, rfl⟩
    · simp only [blockNext, State.stepDly]
      split
      · split <;> simp_all
      · simp_all
    · simp [blockNext]
    · simp [blockNext]
    · simp only [blockNext, State.stepRtr]
      cases hp : s.cphase with
      | enter =>
        right; right; right; right; right; right; right; right; right; left
        exact ⟨trivial, by trivial, by simp [hf]⟩
      | wait =>
        simp only []
        split <;> simp_all

/-! The CAS fields. -/

/-- The patch puts the value into the subfield (R93). -/
theorem casField_patchCas (lsb : Nat) (h : lsb ≤ 30) (e : BitVec 2) (r : Word) :
    casField lsb (patchCas lsb e r) = e := by
  apply BitVec.eq_of_getLsbD_eq; intro i hi
  have h3 : (3 : Word).getLsbD i = true := by
    rcases (show i = 0 ∨ i = 1 by omega) with h | h <;> subst h <;> decide
  simp only [casField, patchCas, BitVec.getLsbD_extractLsb', BitVec.getLsbD_or, BitVec.getLsbD_and, BitVec.getLsbD_not,
    BitVec.getLsbD_shiftLeft, BitVec.getLsbD_setWidth]
  simp [hi, show ¬ lsb + i < lsb by omega, show lsb + i - lsb = i by omega, show lsb + i < 32 by omega,
    show i < 32 by omega]
  intro _ h
  rw [← BitVec.getLsbD_eq_getElem] at h
  exact absurd (h3.symm.trans h) (by decide)

@[simp] theorem cfgCasField_initCfga0 (c : BitVec 14) (m : BitVec 3) : cfgCasField (initCfga0 c m) = m := by
  apply BitVec.eq_of_getLsbD_eq; intro i hi
  simp only [cfgCasField, initCfga0, BitVec.getLsbD_extractLsb', BitVec.getLsbD_and, BitVec.getLsbD_or,
    BitVec.getLsbD_shiftLeft, BitVec.getLsbD_setWidth]
  interval_cases i <;> simp

@[simp] theorem mrCasField_mrBuild (c : BitVec 14) (m : BitVec 3) : mrCasField (mrBuild c m) = m := by
  apply BitVec.eq_of_getLsbD_eq; intro i hi
  simp only [mrCasField, mrBuild, BitVec.getLsbD_extractLsb', BitVec.getLsbD_and, BitVec.getLsbD_or,
    BitVec.getLsbD_shiftLeft, BitVec.getLsbD_setWidth]
  interval_cases i <;> simp

end Sys2Proof.Machine
end

