-- ==== Sys2Proof/Laws/Congr.lean ====
section
/-! SUPPORT. What the block's part of an edge depends on: nothing that the host's part of an edge writes while the block is
busy, and `CTLREG` in two states only. -/

namespace Sys2Proof.Machine

open Sys2Proof

/-- The inputs that the block's part of an edge reads are the same. -/
def Pins.sameForBlock (p q : Pins) : Prop :=
  p.tick = q.tick ∧ p.cmdDone = q.cmdDone ∧ p.cmdOk = q.cmdOk ∧ p.rtrDone = q.rtrDone ∧ p.rtrOk = q.rtrOk

/-- `s` with the staged registers, `RESVAL`, `REJECTED`, `CTLREG`, the inputs and the count of free words of `x`. -/
def State.outside (s x : State) : State :=
  { s with
    rejected := x.rejected, resval := x.resval, cfg0 := x.cfg0, cfg1 := x.cfg1, mrraw := x.mrraw, scmd := x.scmd
    offset := x.offset, len := x.len, buf := x.buf, clkmhz := x.clkmhz, refms := x.refms, ctlreg := x.ctlreg
    draws := x.draws, inputs := x.inputs }

/-- The block's part of an edge does the same, with the same new port events, whatever stands outside it; where it reads
`CTLREG`, that value has to be the same. -/
theorem blockNext_outside (f : Fsm) (s x : State) (tr : List PortEvent) (hp : x.pins.sameForBlock s.pins)
    (hc : f = .iRdcas ∨ f = .iRecon → x.ctlreg = s.ctlreg) :
    ∃ es, (blockNext f s).trace = es ++ s.trace ∧
      blockNext f { s.outside x with trace := tr } = { (blockNext f s).outside x with trace := es ++ tr } := by
  obtain ⟨h1, h2, h3, h4, h5⟩ := hp
  have hpx : ({ s.outside x with trace := tr } : State).pins = x.pins := rfl
  cases f
  case idle => exact ⟨[], rfl, rfl⟩
  case iDly =>
    simp only [blockNext, State.stepDly, hpx, h1]
    by_cases ht : s.pins.tick = true
    · by_cases hd : s.dcnt = s.params.powerupDelayTicks
      · rw [if_pos ht, if_pos hd, if_pos ht, if_pos (show (s.outside x).dcnt = (s.outside x).params.powerupDelayTicks from hd)]
        exact ⟨[], rfl, rfl⟩
      · rw [if_pos ht, if_neg hd, if_pos ht, if_neg (show ¬ (s.outside x).dcnt = (s.outside x).params.powerupDelayTicks from hd)]
        exact ⟨[], rfl, rfl⟩
    · simp only [ht]
      exact ⟨[], rfl, rfl⟩
  case iRdcas =>
    refine ⟨[.ctlRead s.ctlreg], rfl, ?_⟩
    simp [blockNext, State.stepRdcas, State.outside, State.enter, State.record, hc (.inl rfl)]
  case iRecon =>
    have hreg := hc (.inr rfl)
    simp only [blockNext, State.stepRecon]
    by_cases he : casField s.params.casLsb s.ctlreg = casMrToCtl s.mrcas
    · have he' : casField (s.outside x).params.casLsb (s.outside x).ctlreg = casMrToCtl (s.outside x).mrcas :=
        (show (s.outside x).ctlreg = s.ctlreg from hreg) ▸ he
      rw [if_pos he, if_pos he']
      refine ⟨[.ctlRead s.ctlreg], rfl, ?_⟩
      simp [State.record, State.enter, State.outside, hreg]
    · have he' : ¬ casField (s.outside x).params.casLsb (s.outside x).ctlreg = casMrToCtl (s.outside x).mrcas :=
        (show (s.outside x).ctlreg = s.ctlreg from hreg) ▸ he
      rw [if_neg he, if_neg he']
      refine ⟨[.ctlWrite (patchCas s.params.casLsb (casMrToCtl s.mrcas) s.ctlreg), .ctlRead s.ctlreg], rfl, ?_⟩
      simp [State.record, State.enter, State.outside, hreg]
  case iRtr =>
    simp only [blockNext, State.stepRtr, hpx, h4, h5]
    cases hph : s.cphase with
    | enter =>
      have hph' : (s.outside x).cphase = .enter := hph
      simp only [hph']
      exact ⟨[], rfl, rfl⟩
    | wait =>
      have hph' : (s.outside x).cphase = .wait := hph
      simp only [hph']
      by_cases hd : s.pins.rtrDone = true
      · simp only [hd, if_true]
        unfold State.rtrResponse
        cases hk : s.pins.rtrOk <;> simp only [if_true, Bool.false_eq_true, if_false] <;> refine ⟨[_], rfl, ?_⟩ <;>
          simp [State.outside, State.initFail, State.finish, State.record, State.detach, hph]
      · simp only [hd]
        refine ⟨[], rfl, ?_⟩
        simp [State.outside, hph]
  all_goals
    simp only [blockNext, show ({ s.outside x with trace := tr } : State).portWord = s.portWord from rfl]
    cases hw : s.portWord with
    | none => exact ⟨[], rfl, rfl⟩
    | some w =>
      by_cases h7 : portMode w = 7
      · simp only [h7, if_true]
        by_cases hf : s.fsm = .sCmd
        · simp only [hf, show (s.outside x).fsm = .sCmd from hf, if_true]
          refine ⟨[], rfl, ?_⟩
          simp [State.outside, State.refuseReservedMode, State.finish]
        · simp only [hf, show ¬ (s.outside x).fsm = .sCmd from hf, if_false]
          refine ⟨[], rfl, ?_⟩
          simp [State.outside]
      · simp only [h7, if_false, State.ctlCmd, hpx, h2, h3]
        have hfs : (s.outside x).fsm = s.fsm := rfl
        have hcp : (s.outside x).cphase = s.cphase := rfl
        simp only [hfs, hcp]
        by_cases ho : s.fsm.onCmdPort = true
        · simp only [ho, if_true]
          cases hph : s.cphase with
          | enter =>
            refine ⟨[], rfl, ?_⟩
            simp [State.outside]
          | wait =>
            by_cases hd : s.pins.cmdDone = true
            · simp only [hd, if_true]
              unfold State.cmdResponse
              cases hk : s.pins.cmdOk <;> cases hff : s.fsm <;>
                simp only [record_fsm, if_true, Bool.false_eq_true, if_false] <;>
                refine ⟨[.cmd w s.pins.cmdOk], ?_, ?_⟩ <;>
                simp [State.outside, State.initFail, State.finish, State.record, State.detach, State.enter, hff, hph, hk]
            · simp only [hd]
              refine ⟨[], rfl, ?_⟩
              simp [State.outside, hph]
        · simp only [ho]
          refine ⟨[], rfl, ?_⟩
          simp [State.outside]

/-- The same of the edge after the host's part: two states alike but for what stands outside the block go to states alike but
for that. -/
theorem afterHost_outside (f : Fsm) (u x : State) (out o : Option Word) (hx : ∃ tr, x = { u.outside x with trace := tr })
    (hp : x.pins.sameForBlock u.pins) (hc : f = .iRdcas ∨ f = .iRecon → x.ctlreg = u.ctlreg) :
    ∃ es, ((blockNext f u).ctlEdge out o).advance.trace = es ++ u.trace ∧
      ((blockNext f x).ctlEdge out o).advance =
        { ((blockNext f u).ctlEdge out o).advance with
          rejected := x.rejected, resval := x.resval, cfg0 := x.cfg0, cfg1 := x.cfg1, mrraw := x.mrraw, scmd := x.scmd
          offset := x.offset, len := x.len, buf := x.buf, clkmhz := x.clkmhz, refms := x.refms
          draws := (x.ctlEdge out o).draws, inputs := x.inputs.tail, ctlreg := (x.ctlEdge out o).ctlreg
          trace := es ++ x.trace } := by
  obtain ⟨tr, hx⟩ := hx
  obtain ⟨es, h1, h2⟩ := blockNext_outside f u x tr hp hc
  have ht : x.trace = tr := by rw [hx]
  rw [← hx] at h2
  refine ⟨es, ?_, ?_⟩
  · rw [ctlEdge_frame]
    exact h1
  · have e := ctlEdge_congr (s := blockNext f x) (t := x) out o (by rw [h2]; rfl) (by rw [h2]; rfl)
    rw [ctlEdge_frame, e.1, e.2, h2, ht, ctlEdge_frame (s := blockNext f u)]
    rfl

end Sys2Proof.Machine
end

