-- ==== Sys2Proof/Laws/PerInstr.lean ====
section
/-! SUPPORT. What holds of every instruction as syntax, one lemma for each constructor: its word is one of its row of the
opcode table. -/

namespace Sys2Proof

/-- An instruction's row of the opcode table: the bits the row fixes, and their values. -/
def tableMaskMatch : Instr → Word × Word
  | .nop => (0x0000000F, 0x00000000)
  | .init => (0x0000000F, 0x00000001)
  | .deinit => (0x0000000F, 0x00000002)
  | .setmr => (0x0000000F, 0x00000003)
  | .sendcmd => (0x0000000F, 0x00000004)
  | .chkrange => (0x0000000F, 0x00000005)
  | .chkaccB => (0x0000003F, 0x00000006)
  | .chkaccH => (0x0000003F, 0x00000016)
  | .chkaccW => (0x0000003F, 0x00000026)
  | .rsvdChkacc => (0x0000003F, 0x00000036)
  | .calcref => (0x0000000F, 0x00000007)
  | .rsvd _ => (0x00000008, 0x00000008)
  | .portNormal _ _ _ => (0x00000007, 0x00000000)
  | .portClkEnable _ _ _ => (0x00000007, 0x00000001)
  | .portPall _ _ _ => (0x00000007, 0x00000002)
  | .portAutorefresh _ _ _ => (0x00000007, 0x00000003)
  | .portLoadMode _ _ _ => (0x00000007, 0x00000004)
  | .portSelfRefresh _ _ _ => (0x00000007, 0x00000005)
  | .portPowerDown _ _ _ => (0x00000007, 0x00000006)
  | .portRsvd _ _ _ => (0x00000007, 0x00000007)

namespace Laws

/-- The word of a well-formed instruction has the bits its row of the opcode table fixes. -/
def TableRow.Statement (i : Instr) : Prop :=
  i.wf = true → encodeWord i &&& (tableMaskMatch i).1 = (tableMaskMatch i).2

/-- The mode of a packed port word stands in the three bits that a row of the table fixes. -/
theorem packPort_and_seven (a : BitVec 3) (t : BitVec 2) (n : BitVec 4) (m : BitVec 14) :
    (packPort a t n m).setWidth 32 &&& (0x00000007 : Word) = a.setWidth 32 := by
  have h := portMode_packPort a t n m
  apply BitVec.eq_of_getLsbD_eq; intro k hk
  by_cases h3 : k < 3
  · have e := congrArg (fun v : BitVec 3 => v.getLsbD k) h
    simp only [portMode, BitVec.getLsbD_extractLsb'] at e
    have h7 : (0x00000007 : Word).getLsbD k = true := by
      rcases (show k = 0 ∨ k = 1 ∨ k = 2 by omega) with h | h | h <;> subst h <;> decide
    simp only [BitVec.getLsbD_and, BitVec.getLsbD_setWidth, h7, hk]
    simpa [h3] using e
  · have h7 : (0x00000007 : Word).getLsbD k = false := by
      have : ∀ j : Fin 32, 3 ≤ j.val → (0x00000007 : Word).getLsbD j = false := by decide
      exact this ⟨k, hk⟩ (by simp only; omega)
    simp only [BitVec.getLsbD_and, h7, BitVec.getLsbD_setWidth]
    simp [BitVec.getLsbD_of_ge a k (by omega)]

theorem TableRow.nop : TableRow.Statement .nop := fun _ => by decide

theorem TableRow.init : TableRow.Statement .init := fun _ => by decide

theorem TableRow.deinit : TableRow.Statement .deinit := fun _ => by decide

theorem TableRow.setmr : TableRow.Statement .setmr := fun _ => by decide

theorem TableRow.sendcmd : TableRow.Statement .sendcmd := fun _ => by decide

theorem TableRow.chkrange : TableRow.Statement .chkrange := fun _ => by decide

theorem TableRow.chkaccB : TableRow.Statement .chkaccB := fun _ => by decide

theorem TableRow.chkaccH : TableRow.Statement .chkaccH := fun _ => by decide

theorem TableRow.chkaccW : TableRow.Statement .chkaccW := fun _ => by decide

theorem TableRow.rsvdChkacc : TableRow.Statement .rsvdChkacc := fun _ => by decide

theorem TableRow.calcref : TableRow.Statement .calcref := fun _ => by decide

theorem TableRow.rsvd (op : BitVec 4) : TableRow.Statement (.rsvd op) := by
  revert op
  unfold TableRow.Statement
  decide

theorem TableRow.portNormal (t : BitVec 2) (n : BitVec 4) (m : BitVec 14) : TableRow.Statement (.portNormal t n m) :=
  fun _ => packPort_and_seven _ t n m

theorem TableRow.portClkEnable (t : BitVec 2) (n : BitVec 4) (m : BitVec 14) : TableRow.Statement (.portClkEnable t n m) :=
  fun _ => packPort_and_seven _ t n m

theorem TableRow.portPall (t : BitVec 2) (n : BitVec 4) (m : BitVec 14) : TableRow.Statement (.portPall t n m) :=
  fun _ => packPort_and_seven _ t n m

theorem TableRow.portAutorefresh (t : BitVec 2) (n : BitVec 4) (m : BitVec 14) : TableRow.Statement (.portAutorefresh t n m) :=
  fun _ => packPort_and_seven _ t n m

theorem TableRow.portLoadMode (t : BitVec 2) (n : BitVec 4) (m : BitVec 14) : TableRow.Statement (.portLoadMode t n m) :=
  fun _ => packPort_and_seven _ t n m

theorem TableRow.portSelfRefresh (t : BitVec 2) (n : BitVec 4) (m : BitVec 14) : TableRow.Statement (.portSelfRefresh t n m) :=
  fun _ => packPort_and_seven _ t n m

theorem TableRow.portPowerDown (t : BitVec 2) (n : BitVec 4) (m : BitVec 14) : TableRow.Statement (.portPowerDown t n m) :=
  fun _ => packPort_and_seven _ t n m

theorem TableRow.portRsvd (t : BitVec 2) (n : BitVec 4) (m : BitVec 14) : TableRow.Statement (.portRsvd t n m) :=
  fun _ => packPort_and_seven _ t n m

end Laws

end Sys2Proof
end

