-- ==== Sys2Proof/Laws/Runs.lean ====
section
/-! SUPPORT. Runs of several edges at which only the controller and the tick source act: waiting, a whole command transaction,
and the delay of `I_DLY`. -/

namespace Sys2Proof.Machine

open Sys2Proof

variable {s t u : State}

/-! Runs. -/

theorem runSteps_add (m n : Nat) (h : runSteps m s = .next t) : runSteps (m + n) s = runSteps n t := by
  induction m generalizing s with
  | zero => injection h with h; subst h; rw [Nat.zero_add]
  | succ m ih =>
    rw [Nat.add_right_comm]
    simp only [runSteps] at h ⊢
    cases hst : step s with
    | next u => rw [hst] at h; exact ih h
    | fault r => rw [hst] at h; cases h
    | refused r => rw [hst] at h; cases h

theorem runSteps_one (h : step s = .next t) : runSteps 1 s = .next t := by
  simp only [runSteps, h]

/-- One run after another, over the edges of both. -/
theorem runSteps_append {es fs : List Edge} (h : runSteps es.length s = .next t) (h' : runSteps fs.length t = .next u) :
    runSteps (es ++ fs).length s = .next u := by
  rw [List.length_append, runSteps_add _ _ h, h']

theorem silent_cases {e : Edge} (h : e.silent = true) :
    ∃ p : Pins, e = .clock p ∧ p.host = none ∧ p.cmdDone = false ∧ p.rtrDone = false ∧ p.ctlOther = none := by
  cases e with
  | reset _ => cases h
  | clock p => exact ⟨p, rfl, by simpa [Edge.silent, and_assoc] using h⟩

theorem answersCmd_cases {e : Edge} (h : e.answersCmd = true) :
    ∃ p : Pins, e = .clock p ∧ p.host = none ∧ p.cmdDone = true ∧ p.cmdOk = true ∧ p.ctlOther = none := by
  cases e with
  | reset _ => cases h
  | clock p => exact ⟨p, rfl, by simpa [Edge.answersCmd, and_assoc] using h⟩

theorem answersRtr_cases {e : Edge} (h : e.answersRtr = true) :
    ∃ p : Pins, e = .clock p ∧ p.host = none ∧ p.rtrDone = true ∧ p.rtrOk = true ∧ p.ctlOther = none := by
  cases e with
  | reset _ => cases h
  | clock p => exact ⟨p, rfl, by simpa [Edge.answersRtr, and_assoc] using h⟩

/-- An edge with no host access and no writer of `CTLREG`: the block's part alone. -/
theorem step_block {p : Pins} {rest : List Edge} (hi : s.inputs = .clock p :: rest) (hp : p.host = none)
    (ho : s.ctlOut = none) (hw : p.ctlOther = none) : step s = .next { blockNext s.fsm s with inputs := rest } := by
  have hd : s.dropCtlOut = s := by cases s; subst ho; rfl
  rw [step_clock_quiet hi hp, hd, ho, hw, ctlEdge_none, State.advance, blockNext_frame]
  simp only [hi, List.tail_cons]

/-! The command port. -/

/-- Waiting for an answer changes nothing. -/
theorem run_waiting (es : List Edge) {rest : List Edge} (hf : s.fsm.onCmdPort = true) (h7 : s.fsm = .sCmd → portMode s.lScmd ≠ 7)
    (hp : s.cphase = .wait) (ho : s.ctlOut = none) (hi : s.inputs = es ++ rest) (hs : es.all Edge.silent = true) :
    runSteps es.length s = .next { s with inputs := rest } := by
  induction es generalizing s with
  | nil => rw [← show s.inputs = rest from hi]; rfl
  | cons e es ih =>
    simp only [List.all_cons, Bool.and_eq_true] at hs
    obtain ⟨p, rfl, h1, h2, _, h4⟩ := silent_cases hs.1
    have hb : blockNext s.fsm s = s := by
      rcases blockNext_onCmdPort hf with ⟨w, _, _, h | h | h⟩ | h
      · exact absurd (hp.symm.trans h.1) (by decide)
      · exact h.2.2
      · rw [pins_clock hi, h2] at h; exact absurd h.2.1 (by decide)
      · exact absurd h.2.1 (h7 h.1)
    have e1 := step_block hi h1 ho h4
    rw [hb] at e1
    simp only [List.length_cons, runSteps, e1]
    exact ih hf h7 hp ho rfl hs.2

/-- A whole transaction that is answered `Ok`: the answer is recorded and the state's transition taken (R53). -/
theorem run_transaction {es rest : List Edge} {w : PortWord} (he : IsTransaction Edge.answersCmd es) (hf : s.fsm.onCmdPort = true)
    (hw : s.portWord = some w) (h7 : portMode w ≠ 7) (hp : s.cphase = .enter) (ho : s.ctlOut = none)
    (hi : s.inputs = es ++ rest) :
    runSteps es.length s =
      .next { (({ s with cphase := .wait } : State).record (.cmd w true)).cmdResponse true with inputs := rest } := by
  obtain ⟨ws, last, rfl, hne, hws, hl⟩ := he
  have h7' : s.fsm = .sCmd → portMode s.lScmd ≠ 7 := by
    intro h
    simp only [State.portWord, h, Option.some.injEq] at hw
    exact hw ▸ h7
  obtain ⟨e, ws, rfl⟩ := List.exists_cons_of_ne_nil hne
  simp only [List.all_cons, Bool.and_eq_true] at hws
  obtain ⟨p, rfl, h1, _, _, h4⟩ := silent_cases hws.1
  have b1 : blockNext s.fsm s = { s with cphase := .wait } := by
    rcases blockNext_onCmdPort hf with ⟨_, _, _, h | h | h⟩ | h
    · exact h.2
    · exact absurd (hp.symm.trans h.1) (by decide)
    · exact absurd (hp.symm.trans h.1) (by decide)
    · exact absurd h.2.1 (h7' h.1)
  have e1 := step_block (rest := ws ++ ([last] ++ rest)) (by simpa using hi) h1 ho h4
  rw [b1] at e1
  have e2 := run_waiting (s := { s with cphase := .wait, inputs := ws ++ ([last] ++ rest) }) ws hf h7' rfl ho rfl hws.2
  obtain ⟨q, rfl, g1, g2, g3, g4⟩ := answersCmd_cases hl
  have e3 := step_block (s := { s with cphase := .wait, inputs := [.clock q] ++ rest }) rfl g1 ho g4
  have b3 : blockNext s.fsm { s with cphase := .wait, inputs := [.clock q] ++ rest } =
      (({ s with cphase := .wait, inputs := [.clock q] ++ rest } : State).record (.cmd w true)).cmdResponse true := by
    rcases blockNext_onCmdPort (s := { s with cphase := .wait, inputs := [.clock q] ++ rest }) hf with ⟨x, hx, _, h | h | h⟩ | h
    · cases h.1
    · exact absurd (g2.symm.trans h.2.1) (by decide)
    · cases (show some x = some w from hx.symm.trans hw)
      rw [h.2.2, show State.pins _ = q from rfl, g3]
    · exact absurd h.2.1 (h7' h.1)
  refine runSteps_append (t := { s with cphase := .wait, inputs := [.clock q] ++ rest }) ?_ ?_
  · simp only [List.length_cons, runSteps, e1, e2]
  · rw [List.length_singleton, runSteps_one e3]
    simp only []
    rw [b3]
    unfold State.cmdResponse
    cases s.fsm <;> simp [State.record, State.enter, State.finish, State.detach]

/-! The refresh-timer port. -/

/-- Waiting for an answer on the refresh-timer port changes nothing. -/
theorem run_rtr_waiting (es : List Edge) {rest : List Edge} (hf : s.fsm = .iRtr) (hp : s.cphase = .wait) (ho : s.ctlOut = none)
    (hi : s.inputs = es ++ rest) (hs : es.all Edge.silent = true) :
    runSteps es.length s = .next { s with inputs := rest } := by
  induction es generalizing s with
  | nil => rw [← show s.inputs = rest from hi]; rfl
  | cons e es ih =>
    simp only [List.all_cons, Bool.and_eq_true] at hs
    obtain ⟨p, rfl, h1, _, h3, h4⟩ := silent_cases hs.1
    have hb : blockNext s.fsm s = s := by
      simp only [hf, blockNext, State.stepRtr, hp, pins_clock hi, h3]
      rfl
    have e1 := step_block hi h1 ho h4
    rw [hb] at e1
    simp only [List.length_cons, runSteps, e1]
    exact ih hf hp ho rfl hs.2

/-! The delay. -/

/-- Silent edges with no more ticks than the delay has left. -/
theorem run_delay_holds (es : List Edge) {rest : List Edge} (hf : s.fsm = .iDly) (ho : s.ctlOut = none)
    (hi : s.inputs = es ++ rest) (hs : es.all Edge.silent = true)
    (hle : s.dcnt + es.countP Edge.ticks ≤ s.params.powerupDelayTicks) :
    runSteps es.length s = .next { s with dcnt := s.dcnt + es.countP Edge.ticks, inputs := rest } := by
  induction es generalizing s with
  | nil => rw [← show s.inputs = rest from hi]; rfl
  | cons e es ih =>
    simp only [List.all_cons, Bool.and_eq_true] at hs
    obtain ⟨p, rfl, h1, _, _, h4⟩ := silent_cases hs.1
    rw [List.countP_cons] at hle ⊢
    have e1 := step_block hi h1 ho h4
    by_cases ht : p.tick = true
    · rw [if_pos (show (Edge.clock p).ticks = true from ht)] at hle ⊢
      have hb : blockNext s.fsm s = { s with dcnt := s.dcnt + 1 } := by
        simp only [hf, blockNext, State.stepDly, pins_clock hi, ht, if_true]
        rw [if_neg (by omega)]
      rw [hb] at e1
      simp only [List.length_cons, runSteps, e1]
      rw [Nat.add_comm (es.countP _) 1, ← Nat.add_assoc]
      exact ih (s := { s with dcnt := s.dcnt + 1, inputs := es ++ rest }) hf ho rfl hs.2 (by simp only; omega)
    · rw [if_neg (show ¬(Edge.clock p).ticks = true from ht)] at hle ⊢
      have hb : blockNext s.fsm s = s := by
        simp only [hf, blockNext, State.stepDly, pins_clock hi]
        rw [if_neg ht]
      rw [hb] at e1
      simp only [List.length_cons, runSteps, e1]
      exact ih hf ho rfl hs.2 hle

/-- The whole delay, from its entry (R88). -/
theorem run_delay {es rest : List Edge} (he : IsDelay s.params.powerupDelayTicks es) (hf : s.fsm = .iDly) (hd : s.dcnt = 0)
    (ho : s.ctlOut = none) (hi : s.inputs = es ++ rest) :
    runSteps es.length s = .next { s with
      dcnt := s.params.powerupDelayTicks, fsm := .iPall, cphase := .enter, inputs := rest } := by
  obtain ⟨ws, last, rfl, hws, hl, hc, ht⟩ := he
  obtain ⟨p, rfl, h1, _, _, h4⟩ := silent_cases hl
  have e1 := run_delay_holds (rest := [.clock p] ++ rest) ws hf ho (by simpa using hi) hws (by omega)
  rw [hd, hc, Nat.zero_add] at e1
  refine runSteps_append e1 ?_
  rw [List.length_singleton]
  refine runSteps_one ?_
  have e2 := step_block (s := { s with dcnt := s.params.powerupDelayTicks, inputs := [.clock p] ++ rest }) rfl h1 ho h4
  have hb : blockNext s.fsm { s with dcnt := s.params.powerupDelayTicks, inputs := [.clock p] ++ rest } =
      ({ s with dcnt := s.params.powerupDelayTicks, inputs := [.clock p] ++ rest } : State).enter .iPall := by
    simp only [hf, blockNext, State.stepDly]
    rw [if_pos (by exact ht), if_pos trivial]
  rw [e2]
  simp only []
  rw [hb]
  rfl

end Sys2Proof.Machine
end

