-- ==== Sys2Proof/Tests/Slice0.lean ====
section
/-! SUPPORT. Tests of the model: expected values from 95_test_vectors.md (a vector's name stands beside each), words written
out from the encoding tables, and for each statement that has hypotheses a state that meets them. -/

namespace Sys2Proof.Tests

open Sys2Proof Sys2Proof.Machine

/-! Small states. -/

/-- The next state, where there is one. -/
def after : Host.Outcome State Fault Refusal → Option State
  | .next t => some t
  | .fault _ => none
  | .refused _ => none

/-- The block as the vectors' "attached" start state, with edges to come. -/
def attachedState (es : List Edge) : State :=
  { State.reset with
    attached := true, cfga0 := 0x1230, cfga1 := 0x61C, ctlreg := 0x180, result := resultOfOp 1, cphase := .wait
    inputs := es }

/-- The block in a running INIT, in state `f`, from `CFG0 = 0x80001230` and `CFG1 = 0x61C`. -/
def initAt (f : Fsm) (ph : Phase) (es : List Edge) : State :=
  { State.reset with
    cfg0 := 0x80001230, cfg1 := 0x61C, lCfg0 := 0x1230, lCfg1 := 0x61C, lMr := 0x230, mrcas := 0b011
    result := { resultOfOp 1 with code := .busy }, fsm := f, cphase := ph, ctlreg := 0x180, inputs := es }

/-- The block attached, in a running DEINIT, SETMR or SENDCMD with the given latches. -/
def commandAt (f : Fsm) (op : BitVec 4) (mr : BitVec 14) (sc : PortWord) (es : List Edge) : State :=
  { attachedState es with
    result := { resultOfOp op with code := .busy }, fsm := f, lTgt := 1, lMr := mr, lScmd := sc }

def quietEdge : Edge := .clock {}
def tickEdge : Edge := .clock { tick := true }
def okEdge : Edge := .clock { cmdDone := true, cmdOk := true }
def failEdge : Edge := .clock { cmdDone := true }
def rtrOkEdge : Edge := .clock { rtrDone := true, rtrOk := true }
def writeEdge (off : Nat) (v : Word) : Edge := .clock { host := some (.write .word off v) }
def readEdge (off : Nat) : Edge := .clock { host := some (.read .word off) }

/-- `RESULT` and `RESVAL` as a host reads them after a meaning. -/
def results (o : Host.Outcome State Fault Refusal) : Option (Word × Word) :=
  (after o).map fun t => (resultWord t.result, t.resval)

/-- `RESULT`, `STATUS` and `CFGA0` as a host reads them after a meaning. -/
def reads (o : Host.Outcome State Fault Refusal) : Option (Word × Word × Word) :=
  (after o).map fun t => (resultWord t.result, statusWord t, t.cfga0)

/-! WellFormed. -/

theorem test_wf_rejects : (Instr.rsvd 0).wf = false ∧ (Instr.rsvd 3).wf = false ∧ (Instr.rsvd 7).wf = false := by decide

theorem test_wf_admits : (Instr.rsvd 8).wf = true ∧ (Instr.rsvd 15).wf = true ∧ (Instr.portRsvd 3 15 0x3FFF).wf = true := by
  decide

/-! Decoding, from the encoding tables (R65 to R67, R71, R79). -/

theorem test_decode_sequencer :
    decode .cmd32 [0b00000000, 0, 0, 0] = .ok .nop ∧ decode .cmd32 [0b00000001, 0, 0, 0] = .ok .init ∧
    decode .cmd32 [0b00000010, 0, 0, 0] = .ok .deinit ∧ decode .cmd32 [0b00000011, 0, 0, 0] = .ok .setmr ∧
    decode .cmd32 [0b00000100, 0, 0, 0] = .ok .sendcmd := by
  decide

theorem test_decode_validator :
    decode .cmd32 [0b00000101, 0, 0, 0] = .ok .chkrange ∧ decode .cmd32 [0b00000110, 0, 0, 0] = .ok .chkaccB ∧
    decode .cmd32 [0b00010110, 0, 0, 0] = .ok .chkaccH ∧ decode .cmd32 [0b00100110, 0, 0, 0] = .ok .chkaccW ∧
    decode .cmd32 [0b00110110, 0, 0, 0] = .ok .rsvdChkacc ∧ decode .cmd32 [0b00000111, 0, 0, 0] = .ok .calcref ∧
    decode .cmd32 [0b00111000, 0, 0, 0] = .ok (.rsvd 8) ∧ decode .cmd32 [0b00001111, 0, 0, 0] = .ok (.rsvd 15) := by
  decide

/-- `mrd = 10_0000_0000_0001`, `nrfs_m1 = 0111`, `target = 01`. -/
theorem test_decode_port :
    decode .port23 [0b11101000, 0b00000010, 0b01000000] = .ok (.portNormal 1 7 0x2001) ∧
    decode .port23 [0b11101001, 0b00000010, 0b01000000] = .ok (.portClkEnable 1 7 0x2001) ∧
    decode .port23 [0b11101010, 0b00000010, 0b01000000] = .ok (.portPall 1 7 0x2001) ∧
    decode .port23 [0b11101011, 0b00000010, 0b01000000] = .ok (.portAutorefresh 1 7 0x2001) ∧
    decode .port23 [0b11101100, 0b00000010, 0b01000000] = .ok (.portLoadMode 1 7 0x2001) ∧
    decode .port23 [0b11101101, 0b00000010, 0b01000000] = .ok (.portSelfRefresh 1 7 0x2001) ∧
    decode .port23 [0b11101110, 0b00000010, 0b01000000] = .ok (.portPowerDown 1 7 0x2001) ∧
    decode .port23 [0b11101111, 0b00000010, 0b01000000] = .ok (.portRsvd 1 7 0x2001) := by
  decide

theorem test_decode_rejects :
    decode .cmd32 [1, 0, 0] = .error .wrongByteCount ∧ decode .port23 [1, 0, 0, 0] = .error .wrongByteCount ∧
    decode .port23 [0, 0, 0x80] = .error .portWordTooWide := by
  decide

theorem test_decodeTableWord :
    decodeTableWord 32 0x36 = some .rsvdChkacc ∧ decodeTableWord 8 0x0F = some (.rsvd 15) ∧
    decodeTableWord 23 0x04400C = some (.portLoadMode 1 0 0x220) ∧ decodeTableWord 24 0x04600C = some (.portLoadMode 1 0 0x230) ∧
    decodeTableWord 24 0x800000 = none := by
  decide

/-! The commands. -/

/-- X5. -/
theorem test_nop : results (exec .nop { State.reset with result := { resultOfOp 15 with code := .invalidParameter, reason := .reservedEnc } })
    = some (0xF054, 0) := by decide

/-- Program P1. -/
theorem test_init : reads (exec .init { State.reset with cfg0 := 0x80001230 }) = some (0x1002, 0x101, 0) := by decide

/-- I1. -/
theorem test_init_null : reads (exec .init { State.reset with cfg0 := 0x1230 }) = some (0x1064, 0, 0) := by decide

/-- D1. -/
theorem test_deinit_detached : reads (exec .deinit State.reset) = some (0x2000, 0, 0) := by decide

/-- D3. -/
theorem test_deinit : reads (exec .deinit (attachedState [])) = some (0x2002, 0x903, 0x1230) := by decide

/-- M1. -/
theorem test_setmr_detached : reads (exec .setmr State.reset) = some (0x3001, 0, 0) := by decide

/-- S1. -/
theorem test_sendcmd_detached : reads (exec .sendcmd { State.reset with scmd := 0x0A }) = some (0x4001, 0, 0) := by decide

/-- S5. -/
theorem test_sendcmd_reserved : reads (exec .sendcmd { attachedState [] with scmd := 0x0F }) = some (0x4054, 2, 0x1230) := by
  decide

/-! The validator. -/

/-- Program P4: the 32-bit sum would wrap. -/
theorem test_chkrange_wrap : results (exec .chkrange { State.reset with offset := 0x01FFFFF0, len := 0xFFFFFFF0 }) = some (0x5044, 0) := by
  decide

/-- Program P4: a range that ends exactly at the capacity. -/
theorem test_chkrange_end : results (exec .chkrange { State.reset with offset := 0x01FFFFF0, len := 0x10 }) = some (0x5000, 0) := by
  decide

/-- R114: one byte at an odd address is aligned. -/
theorem test_chkaccB : results (exec .chkaccB { State.reset with buf := 0x24000001, offset := 0x101, len := 3 }) = some (0x6008, 3) := by
  decide

/-- Program P4. -/
theorem test_chkaccH : results (exec .chkaccH { State.reset with buf := 0x24000002, offset := 0x01FFFFF0, len := 4 }) = some (0x6008, 8) := by
  decide

/-- Program P4: the null buffer comes first. -/
theorem test_chkaccH_null : results (exec .chkaccH { State.reset with offset := 0x01FFFFF0, len := 4 }) = some (0x6014, 0) := by
  decide

/-- Program P4: not aligned. -/
theorem test_chkaccW : results (exec .chkaccW { State.reset with buf := 0x24000002, offset := 0x01FFFFF0, len := 4 }) = some (0x6000, 16) := by
  decide

/-- A21: the byte size is exact. -/
theorem test_chkaccW_size : results (exec .chkaccW { State.reset with buf := 0x24000000, len := 0xFFFFFFFF }) = some (0x6044, 0) := by
  decide

/-- X3. -/
theorem test_rsvdChkacc : results (exec .rsvdChkacc { State.reset with resval := 9 }) = some (0x6054, 0) := by decide

/-- X1, X2. -/
theorem test_rsvd : results (exec (.rsvd 8) State.reset) = some (0x8054, 0) ∧ results (exec (.rsvd 15) State.reset) = some (0xF054, 0) := by
  decide

/-- C1. -/
theorem test_calcref : results (exec .calcref { State.reset with clkmhz := 100, refms := 64 }) = some (0x7000, 1564) := by decide

/-- C15: the even step leaves 32 bits. -/
theorem test_calcref_arith : results (exec .calcref { State.reset with clkmhz := 40, refms := 439804651 }) = some (0x7074, 0) := by decide

/-! The controller commands, at the edge that answers. -/

/-- R108 with mode 0, by hand from R71. -/
theorem test_portNormal : reads (exec (.portNormal 1 0 0) (commandAt .sCmd 4 0 0x08 [okEdge])) = some (0x4000, 2, 0x1230) := by
  decide

/-- Program P1, the state after step 1; I9. -/
theorem test_portClkEnable : reads (exec (.portClkEnable 1 0 0) (initAt .iCke .wait [okEdge])) = some (0x1002, 0x201, 0) ∧
    reads (exec (.portClkEnable 1 0 0) (initAt .iCke .wait [failEdge])) = some (0x1101, 0, 0) := by
  decide

/-- I10. -/
theorem test_portPall : reads (exec (.portPall 1 0 0) (initAt .iPall .wait [failEdge])) = some (0x1301, 0, 0) := by decide

/-- I2 (the word), I11. -/
theorem test_portAutorefresh : (initAt .iAref .wait []).portWord = some 0xEB ∧
    reads (exec (.portAutorefresh 1 7 0) (initAt .iAref .wait [failEdge])) = some (0x1401, 0, 0) := by
  decide

/-- M2, M4. -/
theorem test_portLoadMode : reads (exec (.portLoadMode 1 0 0x220) (commandAt .mLmr 3 0x220 0 [okEdge])) = some (0x3000, 2, 0x1220) ∧
    reads (exec (.portLoadMode 1 0 0x3FFF) (commandAt .mLmr 3 0x3FFF 0 [okEdge])) = some (0x3000, 2, 0x127F) := by
  decide

/-- S8. -/
theorem test_portSelfRefresh : reads (exec (.portSelfRefresh 1 0 0) (commandAt .sCmd 4 0 0x0D [okEdge])) = some (0x4000, 2, 0x1230) := by
  decide

/-- D4: a failing power-down still ends with `Ok`. -/
theorem test_portPowerDown : (commandAt .dPd 2 0 0 []).portWord = some 0x0E ∧
    reads (exec (.portPowerDown 1 0 0) (commandAt .dPd 2 0 0 [failEdge])) = some (0x2000, 0, 0) := by
  decide

/-- R79: nothing is sent. -/
theorem test_portRsvd : (after (exec (.portRsvd 1 0 0) (commandAt .sCmd 4 0 0x0F [okEdge]))).map State.trace = some [] := by decide

/-! Steps. -/

/-- I5, the patch: `CTLREG` CAS `0b00` becomes `0b11` one cycle after the write is on the port. -/
theorem test_reconcile :
    (after (step { initAt .iRecon .wait [quietEdge] with ctlreg := 0 })).map (fun t => (t.ctlOut, t.ctlreg, resultWord t.result)) =
      some (some 0x180, 0, 0x11002) ∧
    (after (runSteps 2 { initAt .iRecon .wait [quietEdge, quietEdge] with ctlreg := 0 })).map (fun t => (t.ctlOut, t.ctlreg)) =
      some (none, 0x180) := by
  decide

/-- I7, I14, I15. -/
theorem test_rdcas_and_delay :
    (after (step { initAt .iRdcas .wait [quietEdge] with ctlreg := 0xFFFFFF7F })).map (fun t => (t.fsm, t.lMr)) = some (.iLmr, 0x220) ∧
    (after (step (initAt .iDly .wait [tickEdge]))).map (fun t => (t.fsm, t.dcnt)) = some (.iDly, 1) ∧
    (after (step { initAt .iDly .wait [tickEdge] with dcnt := 1 })).map State.fsm = some .iPall := by
  decide

/-- I13 (the last edge), I2 (the last edge). -/
theorem test_refresh_timer :
    reads (step { initAt .iRtr .wait [.clock { rtrDone := true }] with result := { resultOfOp 1 with code := .busy, patched := true } }) =
      some (0x11701, 0, 0) ∧
    reads (step (initAt .iRtr .wait [.clock { rtrDone := true, rtrOk := true }])) = some (0x1000, 2, 0x1230) := by
  decide

/-- H1, H3 to H8, and I17. -/
theorem test_host :
    (after (step { State.reset with inputs := [readEdge 0x3C] })).map State.trace = some [.hostRead 0x3C 0x02000000] ∧
    (after (step { State.reset with inputs := [writeEdge 0x10 0xFFFFFFFF] })).map State.cfg0 = some 0x800033FF ∧
    (after (step { State.reset with rejected := true, inputs := [writeEdge 0x04 0x4] })).map State.rejected = some false ∧
    (after (step { State.reset with rejected := true, inputs := [writeEdge 0x04 0x3] })).map State.rejected = some true ∧
    (after (step (initAt .iCke .wait [writeEdge 0 1]))).map statusWord = some 0x105 := by
  decide

/-- The placed instruction is the one that the next step runs, in each format. -/
theorem test_withFetchWord :
    reads (step (State.reset.withFetchWord 32 0x36)) = some (0x6054, 0, 0) ∧
    (after (step (State.reset.withFetchWord 23 0x04400C))).map State.trace = some [.cmd 0x04400C true] := by
  decide

/-! For each statement with hypotheses, a state and operands that meet them. -/

theorem witness_DecodeOfEncode : (Instr.rsvd 8).wf = true ∧ (Instr.portAutorefresh 3 15 0x3FFF).wf = true := by decide

theorem witness_IgnoredCommandBits : cmdOp 0xFFFFFF26 = cmdOp 0x26 ∧ (cmdOp 0xFFFFFF26 = 6 → cmdWidth 0xFFFFFF26 = cmdWidth 0x26) ∧
    cmdOp 0x38 = cmdOp 0x08 ∧ (cmdOp 0x38 = 6 → cmdWidth 0x38 = cmdWidth 0x08) := by decide

theorem witness_StepRunsDecodedInstruction :
    (∃ t u, (initAt .iDly .wait [tickEdge]).dropCtlOut.hostPhase = .next t ∧
      t.blockPhase (initAt .iDly .wait [tickEdge]).fsm = .next u) ∧
    (∃ t, exec (decodeCmd 7) { State.reset with inputs := [writeEdge 0 7] }.dropCtlOut = .next t) ∧
    ((initAt .iCke .wait [okEdge]).fsm.onCmdPort = true ∧ (initAt .iCke .wait [okEdge]).portWord = some 9 ∧
      ∃ t, exec (decodePort 9) (initAt .iCke .wait [okEdge]).dropCtlOut = .next t) :=
  ⟨⟨_, _, rfl, rfl⟩, ⟨_, rfl⟩, by decide, by decide, _, rfl⟩

theorem witness_StepStopsOnlyOnRefusedAccess :
    (AccessWidth.byte ≠ .word ∧ AccessWidth.half ≠ .word ∧ (6 % 4 ≠ 0)) ∧
    (step { State.reset with inputs := [.clock { host := some (.read .byte 4) }] } = .refused .subWordAccess ∧
      step { State.reset with inputs := [.clock { host := some (.write .word 6 0) }] } = .refused .misalignedAccess) :=
  ⟨by decide, rfl, rfl⟩

theorem witness_NopResult : State.reset.fsm = .idle ∧ (initAt .iCke .wait []).fsm ≠ .idle ∧ cmdOp 0x30 = 0 := by decide

theorem witness_BusyCommandRejected :
    (Instr.calcref.format = .cmd32 ∧ (initAt .iRtr .wait []).fsm ≠ .idle) ∧
    (∃ t, step { State.reset with rejected := true, inputs := [writeEdge 4 4] } = .next t ∧ t.rejected = false) ∧
    (∃ t, step { State.reset with rejected := true, inputs := [.reset none] } = .next t ∧ t.rejected = false) ∧
    (∃ t, step (initAt .iCke .wait [writeEdge 0 0]) = .next t ∧ (initAt .iCke .wait []).rejected = false ∧ t.rejected = true) :=
  ⟨by decide, ⟨_, rfl, rfl⟩, ⟨_, rfl, rfl⟩, ⟨_, rfl, rfl, rfl⟩⟩

theorem witness_InitAcceptance : State.reset.fsm = .idle ∧ State.reset.cfg0.getLsbD 31 = false ∧
    (0x80001230 : Word).getLsbD 31 = true := by decide

theorem witness_DeinitAcceptance_and_SetmrAcceptance : State.reset.fsm = .idle ∧ State.reset.attached = false ∧
    (attachedState []).fsm = .idle ∧ (attachedState []).attached = true := by decide

theorem witness_SendcmdAcceptance : (attachedState []).attached = true ∧ (0x0F : Word).extractLsb' 0 3 = (7 : BitVec 3) ∧
    (0x0E : Word).extractLsb' 0 3 ≠ (7 : BitVec 3) := by decide

theorem witness_ChkrangeResult : State.reset.fsm = .idle ∧ checkRange State.reset.params.capacity 0x01FFFFFF 1 = (.ok, .none) ∧
    checkRange State.reset.params.capacity 0x01FFFFFF 2 = (.invalidParameter, .endRange) ∧
    checkRange State.reset.params.capacity 0x01FFFFFF 0 = (.invalidParameter, .zeroSize) ∧
    checkRange State.reset.params.capacity 0x02000000 0 = (.invalidParameter, .offsetRange) := by decide

theorem witness_ChkaccResult :
    (Instr.chkaccW, 4) ∈ [(Instr.chkaccB, 1), (Instr.chkaccH, 2), (Instr.chkaccW, 4)] ∧ State.reset.buf = 0 ∧
    (1 : Word) ≠ 0 ∧ checkRange State.reset.params.capacity 0x01FFFFFC (1 * 4) = (.ok, .none) ∧
    checkRange State.reset.params.capacity 0x01FFFFFC (2 * 4) = (.invalidParameter, .endRange) := by decide

theorem witness_ChkaccSizeFitsAndBaseIsNeutral : checkRange State.reset.params.capacity 0 (0x800000 * 4) = (.ok, .none) := by decide

/-- C1 meets the second clause, C12 and C15 the first. -/
theorem witness_CalcrefResult : State.reset.fsm = .idle ∧ State.reset.params.roundTies = .up ∧
    (let raw := (2 * (64 * 1000 * 100) + State.reset.params.rowCount) / (2 * State.reset.params.rowCount);
      (100 : Word) ≠ 0 ∧ raw + raw % 2 ≤ 0xFFFFFFFF) ∧
    (let raw := (2 * (439804651 * 1000 * 40) + State.reset.params.rowCount) / (2 * State.reset.params.rowCount);
      0xFFFFFFFF < raw + raw % 2) := by decide

theorem witness_RoundingIsNearest : 0 < 4096 ∧ 2 * (6400000 % 4096) = 4096 := by decide

theorem witness_CalcrefCountIsEven : State.reset.fsm = .idle := rfl

theorem witness_ReservedEncodingResult : State.reset.fsm = .idle ∧ (Instr.rsvd 8).wf = true ∧ (Instr.rsvd 15).wf = true := by decide

theorem witness_ValidatorIsPure : State.reset.fsm = .idle ∧
    Instr.rsvd 9 ∈ [Instr.chkrange, .chkaccB, .chkaccH, .chkaccW, .rsvdChkacc, .calcref, .rsvd 9] := by decide

theorem witness_CommandHandshake : (initAt .iPall .enter []).fsm.onCmdPort = true ∧ (initAt .iPall .enter []).cphase = .enter ∧
    (initAt .iPall .wait [quietEdge]).cphase = .wait ∧ (initAt .iPall .wait [quietEdge]).pins.cmdDone = false := by decide

theorem witness_OneRequestAtATime :
    (∃ t, step (initAt .iCke .wait [quietEdge]) = .next t ∧ (initAt .iCke .wait [quietEdge]).cmdReq = true ∧ t.cmdReq = true) ∧
    (∃ t, step (initAt .iRtr .wait [quietEdge]) = .next t ∧ (initAt .iRtr .wait [quietEdge]).rtrReq = true ∧ t.rtrReq = true) ∧
    (∃ t, step (initAt .iPall .wait [okEdge]) = .next t ∧ (initAt .iPall .wait [okEdge]).cmdReq = true ∧
      (initAt .iPall .wait [okEdge]).pins.cmdDone = true) ∧
    (∃ t, step (initAt .iRtr .wait [rtrOkEdge]) = .next t ∧ (initAt .iRtr .wait [rtrOkEdge]).rtrReq = true ∧
      (initAt .iRtr .wait [rtrOkEdge]).pins.rtrDone = true) :=
  ⟨⟨_, rfl, by decide, by decide⟩, ⟨_, rfl, by decide, by decide⟩, ⟨_, rfl, by decide, by decide⟩, _, rfl, by decide, by decide⟩

theorem witness_PortWordsBuilt : (latchTarget (0x1230 : BitVec 14)).setWidth 23 <<< 3 = (8 : PortWord) ∧
    (initAt .iAref .wait []).fsm = .iAref ∧ (initAt .iAref .wait []).params.arefCount = 8 ∧
    (commandAt .dPd 2 0 0 []).fsm = .dPd := by decide

theorem witness_InitCommandSteps :
    (∀ f ∈ [Fsm.iCke, .iPall, .iAref, .iLmr], (initAt f .wait [okEdge]).fsm = f ∧ (initAt f .wait [okEdge]).cphase = .wait ∧
      (initAt f .wait [okEdge]).pins.cmdDone = true ∧ (initAt f .wait [okEdge]).pins.cmdOk = true ∧
      (initAt f .wait [failEdge]).pins.cmdDone = true ∧ (initAt f .wait [failEdge]).pins.cmdOk = false) ∧
    (7 : BitVec 4).toNat + 1 = (initAt .iAref .wait [okEdge]).params.arefCount := by decide

theorem witness_PowerDownStep_SetModeStep_PassthroughStep :
    (∀ f ∈ [Fsm.dPd, .mLmr, .sCmd], (commandAt f 2 0 0 [okEdge]).fsm = f ∧ (commandAt f 2 0 0 [okEdge]).cphase = .wait ∧
      (commandAt f 2 0 0 [okEdge]).pins.cmdDone = true ∧ (commandAt f 2 0 0 [okEdge]).pins.cmdOk = true ∧
      (commandAt f 2 0 0 [failEdge]).pins.cmdDone = true ∧ (commandAt f 2 0 0 [failEdge]).pins.cmdOk = false) := by decide

theorem witness_ReservedModeNeverSent :
    (∃ t, step { State.reset with trace := [.cmd 7 true], inputs := [quietEdge] } = .next t ∧ portMode 7 = 7 ∧
      .cmd 7 true ∈ t.trace) ∧
    (ControlInv (commandAt .sCmd 4 0 0x0E []) ∧ ∃ f, (commandAt .sCmd 4 0 0x0E []).cmdFields = some f) ∧
    (commandAt .sCmd 4 0 0x0F []).fsm = .sCmd :=
  ⟨⟨_, rfl, by decide, by decide⟩, ⟨by constructor <;> decide, _, rfl⟩, rfl⟩

theorem witness_NoAnswerIsAHang : (initAt .iRtr .wait [quietEdge]).fsm = .iRtr ∧ (initAt .iRtr .wait [quietEdge]).fsm ≠ .sCmd ∧
     (initAt .iCke .enter [quietEdge, tickEdge]).fsm.onCmdPort = true ∧
    (initAt .iCke .enter [quietEdge, tickEdge]).fsm ≠ .sCmd ∧
    [quietEdge, tickEdge, readEdge 4, writeEdge 0 1, writeEdge 0x10 5, .clock { ctlOther := some 9 }].all Edge.unanswered = true ∧
    (commandAt .sCmd 4 0 0x0E [quietEdge]).fsm.onCmdPort = true ∧ portMode (commandAt .sCmd 4 0 0x0E [quietEdge]).lScmd ≠ 7 := by
  decide

theorem witness_DelayStep : (initAt .iDly .wait [tickEdge]).fsm = .iDly ∧
    (initAt .iDly .wait [tickEdge]).dcnt ≠ (initAt .iDly .wait [tickEdge]).params.powerupDelayTicks ∧
    ({ initAt .iDly .wait [tickEdge] with dcnt := 1 } : State).dcnt = (initAt .iDly .wait [tickEdge]).params.powerupDelayTicks := by
  decide

theorem witness_DelayHoldsItsTicks :
    (let es := [quietEdge, tickEdge, quietEdge];
      es.all Edge.silent = true ∧ es.countP Edge.ticks ≤ (initAt .iDly .wait es).params.powerupDelayTicks ∧
      (initAt .iDly .wait es).fsm = .iDly ∧ (initAt .iDly .wait es).dcnt = 0) ∧
    (let es := [tickEdge, quietEdge, tickEdge];
      es.all Edge.silent = true ∧ es = es.dropLast ++ [tickEdge] ∧ tickEdge.ticks = true ∧
      es.countP Edge.ticks = (initAt .iDly .wait es).params.powerupDelayTicks + 1) := by decide

theorem witness_ReadCasStep : (initAt .iRdcas .wait [quietEdge]).inputs = .clock {} :: [] ∧
    (initAt .iRdcas .wait [quietEdge]).fsm = .iRdcas := by decide

/-- `CTLREG` 0x180 agrees with CAS 3; 0 and 0x100 do not. -/
theorem witness_ReconcileStep : (initAt .iRecon .wait [quietEdge]).fsm = .iRecon ∧
    (0x180 : Word).extractLsb' 7 2 = casMrToCtl 0b011 ∧ (0 : Word).extractLsb' 7 2 ≠ casMrToCtl 0b011 ∧
    (0x100 : Word).extractLsb' 7 2 ≠ casMrToCtl 0b011 := by decide

theorem witness_PatchReachesCtlreg :
    ∃ t, step { initAt .iRtr .enter [quietEdge] with ctlOut := some 0x180 } = .next t ∧
      ({ initAt .iRtr .enter [quietEdge] with ctlOut := some 0x180 } : State).fsm ≠ .iRecon :=
  ⟨_, rfl, by decide⟩

theorem witness_RefreshTimerStep : (initAt .iRtr .enter [quietEdge]).fsm = .iRtr ∧ (initAt .iRtr .enter [quietEdge]).cphase = .enter ∧
    (initAt .iRtr .wait [quietEdge]).cphase = .wait := by decide

theorem witness_PatchChangesOnlySubfield : 0 ≠ State.reset.params.casLsb ∧ 0 ≠ State.reset.params.casLsb + 1 ∧
    31 ≠ State.reset.params.casLsb ∧ 31 ≠ State.reset.params.casLsb + 1 := by decide

theorem controlInv_initAt (f : Fsm) (hf : f = .iRecon ∨ f = .iRtr) (es : List Edge) : ControlInv (initAt f .wait es) := by
  have h : ControlInv (initAt f .wait []) := by rcases hf with rfl | rfl <;> constructor <;> decide
  exact ⟨h.1, h.2, h.3, h.4, h.5, h.6, h.7, h.8, h.9⟩

theorem witness_CasAgreementAfterInit :
    (ControlInv (initAt .iRecon .wait [quietEdge]) ∧ ∃ t, step (initAt .iRecon .wait [quietEdge]) = .next t) ∧
    (let s := initAt .iRtr .wait [.clock { rtrDone := true, rtrOk := true }];
      ControlInv s ∧ casField s.params.casLsb (s.ctlOut.getD s.ctlreg) = casMrToCtl s.mrcas ∧
      ∃ t, step s = .next t ∧ t.fsm = .idle ∧ t.attached = true) :=
  ⟨⟨controlInv_initAt _ (.inl rfl) _, _, rfl⟩, controlInv_initAt _ (.inr rfl) _, by decide, _, rfl, rfl, rfl⟩

/-- A schedule with waiting edges and stray ticks: the second clause with `CTLREG` 0, the first with 0x180. -/
def witnessSchedule : InitSchedule where
  cke := [quietEdge, tickEdge, quietEdge] ++ [okEdge]
  delay := [quietEdge, tickEdge, quietEdge] ++ [tickEdge]
  pall := [quietEdge] ++ [okEdge]
  aref := [tickEdge, tickEdge] ++ [okEdge]
  rdcas := tickEdge
  lmr := [quietEdge] ++ [okEdge]
  recon := quietEdge
  rtr := [quietEdge, quietEdge] ++ [rtrOkEdge]

theorem witness_SuccessfulInitRun :
    witnessSchedule.Succeeds State.reset.params.powerupDelayTicks ∧
    (let s : State := { State.reset with
        cfg0 := 0x80001230, ctlreg := 0x180
        inputs := .clock { host := some (.write .word 0 1) } :: (witnessSchedule.edges ++ []) };
      s.fsm = .idle ∧ s.ctlOut = none ∧ s.cfg0.getLsbD 31 = true ∧ decodeCmd 1 = .init ∧ (7 : BitVec 4).toNat + 1 = s.params.arefCount ∧
      casField s.params.casLsb s.ctlreg = casMrToCtl (casCtlToMr (casField s.params.casLsb s.ctlreg))) ∧
    casField State.reset.params.casLsb 0 ≠ casMrToCtl (casCtlToMr (casField State.reset.params.casLsb 0)) :=
  ⟨⟨⟨_, _, rfl, by decide, by decide, by decide⟩, ⟨_, _, rfl, by decide, by decide, by decide, by decide⟩,
    ⟨_, _, rfl, by decide, by decide, by decide⟩, ⟨_, _, rfl, by decide, by decide, by decide⟩, by decide,
    ⟨_, _, rfl, by decide, by decide, by decide⟩, by decide, ⟨_, _, rfl, by decide, by decide, by decide⟩⟩, by decide, by decide⟩

theorem witness_HostReads :
    (∃ v, readMapped State.reset 0x3C = some v) ∧ 0x3C % 4 = 0 ∧
    (let s : State := { State.reset with params := { Config.defaultParams with regSpan := 0x100, regSpan_ge := by decide } };
      64 ≤ 0x40 ∧ 0x40 < s.params.regSpan ∧ 0xFC < s.params.regSpan ∧ s.params.regSpan ≤ 0x100) :=
  ⟨⟨_, rfl⟩, by decide, by decide⟩

theorem witness_HostWrites : ({ State.reset with inputs := [writeEdge 0x34 5] } : State).pins.host = some (.write .word 0x34 5) ∧
    0x34 % 4 = 0 ∧ (0x4 : Word).getLsbD 2 = true ∧ (0x3 : Word).getLsbD 2 = false := by decide

theorem witness_HostReadHasNoSideEffect : 0x3C % 4 = 0 ∧ 0x3C < State.reset.params.regSpan ∧
    ∃ t, step { initAt .iRecon .wait [] with inputs := [quietEdge] } = .next t :=
  ⟨by decide, by decide, _, rfl⟩

/-- The edge at which INIT ends is one of them. -/
theorem witness_CommandAtFinishingEdge :
    (initAt .iRtr .wait []).fsm ≠ .idle ∧
    ∃ t, step { initAt .iRtr .wait [] with inputs := [.clock { rtrDone := true, rtrOk := true }] } = .next t ∧ t.fsm = .idle :=
  ⟨by decide, _, rfl, rfl⟩

theorem witness_ResetEdge : (initAt .iPall .wait [.reset none]).inputs = .reset none :: [] ∧
    (attachedState [.reset (some 5)]).fsm = .idle ∧ (attachedState [.reset (some 5)]).ctlOut = none := by decide

theorem controlInv_reset : ControlInv State.reset := by constructor <;> decide

theorem resultInv_reset : ResultInv State.reset := by constructor <;> decide

theorem witness_InvariantsKept :
    (ControlInv (initAt .iRtr .wait [.clock { rtrDone := true }]) ∧
      ∃ t, step (initAt .iRtr .wait [.clock { rtrDone := true }]) = .next t) ∧
    (ControlInv { State.reset with inputs := [] } ∧ ResultInv State.reset ∧ ∃ t, step State.reset = .next t) ∧
    ReservedInv (initAt .iRtr .wait [quietEdge]) :=
  ⟨⟨controlInv_initAt _ (.inr rfl) _, _, rfl⟩, ⟨controlInv_reset, resultInv_reset, _, rfl⟩, by constructor <;> decide⟩

theorem witness_InitTransitions : ∀ f ∈ [Fsm.iCke, .iDly, .iPall, .iAref, .iRdcas, .iLmr, .iRecon, .iRtr],
    (after (step (initAt f .wait [.clock { tick := true, cmdDone := true, cmdOk := true, rtrDone := true }]))).isSome = true := by
  decide

/-- INIT accepted, a host read in `IDLE`, and an answered edge of each of the three. -/
theorem witness_CommandTransitions :
    (∃ t, step { State.reset with cfg0 := 0x80001230, inputs := [writeEdge 0 1] } = .next t ∧ t.fsm = .iCke) ∧
    (∃ t, step { State.reset with inputs := [readEdge 4] } = .next t) ∧
    (∃ t, step (commandAt .dPd 2 0 0 [failEdge]) = .next t) ∧ (∃ t, step (commandAt .mLmr 3 0x220 0 [okEdge]) = .next t) ∧
    ((∃ t, step (commandAt .sCmd 4 0 0x0E [okEdge]) = .next t) ∧ portMode (commandAt .sCmd 4 0 0x0E [okEdge]).lScmd ≠ 7) :=
  ⟨⟨_, rfl, rfl⟩, ⟨_, rfl⟩, ⟨_, rfl⟩, ⟨_, rfl⟩, ⟨_, rfl⟩, by decide⟩

theorem witness_AttachedWriters :
    (∃ t, step (initAt .iRtr .wait [.clock { rtrDone := true, rtrOk := true }]) = .next t ∧ t.attached = true) ∧
    (∃ t, step (commandAt .dPd 2 0 0 [failEdge]) = .next t ∧ (commandAt .dPd 2 0 0 [failEdge]).attached = true ∧
      t.attached = false) ∧
    (∃ t, step { attachedState [writeEdge 0 1] with cfg0 := 0x80001230 } = .next t ∧ t.attached = false) :=
  ⟨⟨_, rfl, rfl⟩, ⟨_, rfl, rfl, rfl⟩, ⟨_, rfl, rfl⟩⟩

theorem witness_ActiveConfigWriters :
    (∃ t, step (commandAt .mLmr 3 0x220 0 [okEdge]) = .next t ∧ t.cfga0 ≠ (commandAt .mLmr 3 0x220 0 [okEdge]).cfga0) ∧
    (∃ t, step (commandAt .dPd 2 0 0 [okEdge]) = .next t ∧ t.cfga1 ≠ (commandAt .dPd 2 0 0 [okEdge]).cfga1) :=
  ⟨⟨_, rfl, by decide⟩, ⟨_, rfl, by decide⟩⟩

theorem witness_OperandsDoNotReachRunningOperation :
    (initAt .iLmr .wait [okEdge]).fsm ≠ .idle ∧ ∃ t, step (initAt .iLmr .wait [okEdge]) = .next t :=
  ⟨by decide, _, rfl⟩

theorem witness_CtlregReachedInTwoStates :
    (initAt .iLmr .wait [okEdge]).fsm ≠ .iRdcas ∧ (initAt .iLmr .wait [okEdge]).fsm ≠ .iRecon ∧
    (initAt .iLmr .wait [okEdge]).ctlOut = none ∧ ∃ t, step (initAt .iLmr .wait [okEdge]) = .next t :=
  ⟨by decide, by decide, rfl, _, rfl⟩

theorem witness_StepAdvancesTheRecord : ∃ t, step { State.reset with inputs := [readEdge 0x40] } = .next t := ⟨_, rfl⟩

end Sys2Proof.Tests
end

/-! The fields of the words a host reads from `STATUS` and `RESULT`, and O44. A word is a concatenation of its fields, so a
field is read at the position that is the sum of the widths below it: a single bit by `BitVec.getLsbD_append`, a wider field
by dropping the fields below it (`BitVec.extractLsb'_append_eq_of_le`). These rules run under `simp only` before anything else:
full `simp` would first turn `getLsbD` into `getElem` and add up the widths, after which they no longer match. -/

namespace Sys2Proof.Machine

open Sys2Proof BitVec

theorem busy_eq_decide (s : State) : s.busy = decide (s.fsm ≠ .idle) := by
  rw [Bool.eq_iff_iff, decide_eq_true_iff]
  exact bne_iff_ne

/-! `STATUS` (R24, R25). -/

theorem statusWord_busy (s : State) : (statusWord s).getLsbD 0 = decide (s.fsm ≠ .idle) := by
  rw [← busy_eq_decide]
  simp only [statusWord, getLsbD_append, getLsbD_ofBool]; simp

theorem statusWord_attached (s : State) : (statusWord s).getLsbD 1 = s.attached := by
  simp only [statusWord, getLsbD_append, getLsbD_ofBool]; simp

theorem statusWord_rejected (s : State) : (statusWord s).getLsbD 2 = s.rejected := by
  simp only [statusWord, getLsbD_append, getLsbD_ofBool]; simp

theorem statusWord_reserved_7_3 (s : State) : (statusWord s).extractLsb' 3 5 = 0 := by
  simp (disch := decide) only [statusWord, extractLsb'_append_eq_of_le, Nat.reduceSub, extractLsb'_append_eq_right]

theorem statusWord_fsm (s : State) : (statusWord s).extractLsb' 8 5 = s.fsm.code := by
  simp (disch := decide) only [statusWord, extractLsb'_append_eq_of_le, Nat.reduceSub, extractLsb'_append_eq_right]

theorem statusWord_reserved_31_13 (s : State) : (statusWord s).extractLsb' 13 19 = 0 := by
  simp (disch := decide) only [statusWord, extractLsb'_append_eq_of_le, Nat.reduceSub, extractLsb'_eq_self]

/-! `RESULT` (R27). -/

theorem resultWord_code (r : Result) : (resultWord r).extractLsb' 0 3 = r.code.code :=
  extractLsb'_append_eq_right

theorem resultWord_aligned (r : Result) : (resultWord r).getLsbD 3 = r.aligned := by
  simp only [resultWord, getLsbD_append, getLsbD_ofBool]; simp

theorem resultWord_reason (r : Result) : (resultWord r).extractLsb' 4 3 = r.reason.code := by
  simp (disch := decide) only [resultWord, extractLsb'_append_eq_of_le, Nat.reduceSub, extractLsb'_append_eq_right]

theorem resultWord_reserved_7 (r : Result) : (resultWord r).getLsbD 7 = false := by
  simp only [resultWord, getLsbD_append]; simp

theorem resultWord_step (r : Result) : (resultWord r).extractLsb' 8 3 = r.step := by
  simp (disch := decide) only [resultWord, extractLsb'_append_eq_of_le, Nat.reduceSub, extractLsb'_append_eq_right]

theorem resultWord_reserved_11 (r : Result) : (resultWord r).getLsbD 11 = false := by
  simp only [resultWord, getLsbD_append]; simp

theorem resultWord_op (r : Result) : (resultWord r).extractLsb' 12 4 = r.op := by
  simp (disch := decide) only [resultWord, extractLsb'_append_eq_of_le, Nat.reduceSub, extractLsb'_append_eq_right]

theorem resultWord_patched (r : Result) : (resultWord r).getLsbD 16 = r.patched := by
  simp only [resultWord, getLsbD_append, getLsbD_ofBool]; simp

theorem resultWord_reserved_31_17 (r : Result) : (resultWord r).extractLsb' 17 15 = 0 := by
  simp (disch := decide) only [resultWord, extractLsb'_append_eq_of_le, Nat.reduceSub, extractLsb'_eq_self]

/-- Settles O44: each field of the two words is read where its lemma puts it, and the three tables are checked entry by
entry. -/
theorem statusAndResultFields : Obligations.StatusAndResultFields := by
  unfold Obligations.StatusAndResultFields
  refine ⟨fun s => ?status, fun r => ?result, ?fsm, ?code, ?reason⟩
  case status =>
    exact ⟨statusWord_busy s, statusWord_attached s, statusWord_rejected s, statusWord_reserved_7_3 s, statusWord_fsm s,
      statusWord_reserved_31_13 s⟩
  case result =>
    exact ⟨resultWord_code r, resultWord_aligned r, resultWord_reason r, resultWord_reserved_7 r, resultWord_step r,
      resultWord_reserved_11 r, resultWord_op r, resultWord_patched r, resultWord_reserved_31_17 r⟩
  case fsm => decide
  case code => decide
  case reason => decide

end Sys2Proof.Machine

/-! When a step stops (R46), and O5. Only the host's part of a clock edge can stop a step: the block's part always answers a
next state (`blockPhase_next`). So the proof follows the host access at the head of the inputs: one that is not admitted is
refused by name, and every other edge has a next state. -/

namespace Sys2Proof.Machine

open Sys2Proof

variable {s : State}

theorem hostPhase_none (h : s.pins.host = none) : s.hostPhase = .next s := by
  simp only [State.hostPhase, h]

/-- R46: an access of 8 or 16 bits is refused whatever its offset. -/
theorem hostPhase_subWord {w : AccessWidth} {off : Nat} {v : Word}
    (h : s.pins.host = some (.read w off) ∨ s.pins.host = some (.write w off v)) (hw : w ≠ .word) :
    s.hostPhase = .refused .subWordAccess := by
  rcases h with h | h <;> simp only [State.hostPhase, h, if_pos hw]

/-- R46: a 32-bit access at an offset that is no multiple of 4 is refused. -/
theorem hostPhase_misaligned {off : Nat} {v : Word}
    (h : s.pins.host = some (.read .word off) ∨ s.pins.host = some (.write .word off v)) (ho : off % 4 ≠ 0) :
    s.hostPhase = .refused .misalignedAccess := by
  rcases h with h | h <;> simp only [State.hostPhase, h, ne_eq, not_true_eq_false, if_false, if_pos ho]

theorem hostPhase_not_admitted {a : HostAccess} (h : s.pins.host = some a) (ha : a.admitted = false) :
    ∃ r, s.hostPhase = .refused r := by
  have refused (w : AccessWidth) (off : Nat) (v : Word) (hna : ¬(w = .word ∧ off % 4 = 0))
      (hh : s.pins.host = some (.read w off) ∨ s.pins.host = some (.write w off v)) : ∃ r, s.hostPhase = .refused r := by
    by_cases hw : w = .word
    · subst hw
      exact ⟨_, hostPhase_misaligned hh fun ho => hna ⟨rfl, ho⟩⟩
    · exact ⟨_, hostPhase_subWord hh hw⟩
  cases a with
  | read w off => exact refused w off 0 (by simpa [HostAccess.admitted] using ha) (.inl h)
  | write w off v => exact refused w off v (by simpa [HostAccess.admitted] using ha) (.inr h)

theorem exec_command_next {i : Instr} (hi : i.format = .cmd32) : ∃ t, exec i s = .next t := by
  by_cases hf : s.fsm = .idle
  · exact ⟨_, exec_command_idle i hi hf⟩
  · exact ⟨_, exec_command_busy i hi hf⟩

/-- The host's part of an edge stops on no admitted access, a write to `CMD` of whatever word included. -/
theorem hostPhase_admitted (h : ∀ a, s.pins.host = some a → a.admitted = true) : ∃ t, s.hostPhase = .next t := by
  cases hp : s.pins.host with
  | none => exact ⟨_, hostPhase_none hp⟩
  | some a =>
    have ha := h a hp
    cases a with
    | read w off =>
      obtain ⟨rfl, ho⟩ : w = .word ∧ off % 4 = 0 := by simpa [HostAccess.admitted] using ha
      exact ⟨s.hostRead off, by simp [State.hostPhase, hp, ho]⟩
    | write w off v =>
      obtain ⟨rfl, ho⟩ : w = .word ∧ off % 4 = 0 := by simpa [HostAccess.admitted] using ha
      by_cases h0 : off = 0
      · obtain ⟨t, ht⟩ := exec_command_next (s := s) (decodeCmd_format v)
        exact ⟨t, by simp [State.hostPhase, hp, h0, ht]⟩
      · exact ⟨s.hostWrite off v, by simp [State.hostPhase, hp, ho, h0]⟩

/-- A clock edge whose host's part is refused. -/
theorem step_clock_refused {p : Pins} {rest : List Edge} {r : Refusal} (hi : s.inputs = .clock p :: rest)
    (hr : s.dropCtlOut.hostPhase = .refused r) : step s = .refused r := by
  simp only [step, State.edge, hi, State.clockEdge, hr, State.afterHost]

/-- Past the end of the inputs the surroundings are quiet, and the block steps on. -/
theorem step_inputs_nil (hi : s.inputs = []) : ∃ t, step s = .next t := by
  have hp : s.dropCtlOut.hostPhase = .next s.dropCtlOut :=
    hostPhase_none (by rw [dropCtlOut_pins, State.pins, hi])
  simp only [step, State.edge, hi, State.clockEdge, hp, State.afterHost, blockPhase_next]
  exact ⟨_, rfl⟩

/-- A step with no access at hand that the spec refuses has a next state. -/
theorem step_next_of_admitted (h : ∀ p rest a, s.inputs = .clock p :: rest → p.host = some a → a.admitted = true) :
    ∃ t, step s = .next t := by
  cases hi : s.inputs with
  | nil => exact step_inputs_nil hi
  | cons e rest =>
    cases e with
    | reset o => exact ⟨_, step_reset hi⟩
    | clock p =>
      obtain ⟨u, hu⟩ : ∃ u, s.dropCtlOut.hostPhase = .next u :=
        hostPhase_admitted fun a ha => h p rest a hi (by rwa [dropCtlOut_pins, pins_clock hi] at ha)
      exact ⟨_, step_clock hi hu⟩

theorem step_refused_of_not_admitted {p : Pins} {rest : List Edge} {a : HostAccess} (hi : s.inputs = .clock p :: rest)
    (hp : p.host = some a) (ha : a.admitted = false) : ∃ r, step s = .refused r := by
  obtain ⟨r, hr⟩ := hostPhase_not_admitted (s := s.dropCtlOut) (by rwa [dropCtlOut_pins, pins_clock hi]) ha
  exact ⟨r, step_clock_refused hi hr⟩

/-- Settles O5: the host's part refuses by name, and a step is refused exactly when the access at the head of the inputs is
not admitted. -/
theorem stepStopsOnlyOnRefusedAccess : Obligations.StepStopsOnlyOnRefusedAccess := by
  unfold Obligations.StepStopsOnlyOnRefusedAccess
  refine ⟨fun s p rest w off v hi hh => ?names, fun s => ?only⟩
  case names =>
    rw [← pins_clock hi, ← dropCtlOut_pins] at hh
    refine ⟨fun hw => step_clock_refused hi (hostPhase_subWord hh hw), ?_⟩
    rintro rfl ho
    exact step_clock_refused hi (hostPhase_misaligned hh ho)
  case only =>
    by_cases hx : ∃ p rest a, s.inputs = .clock p :: rest ∧ p.host = some a ∧ a.admitted = false
    · obtain ⟨p, rest, a, hi, hp, ha⟩ := hx
      obtain ⟨r, hr⟩ := step_refused_of_not_admitted hi hp ha
      exact ⟨by simp [hr], fun _ => ⟨p, rest, a, hi, hp, ha⟩, fun _ => ⟨r, hr⟩⟩
    · obtain ⟨t, ht⟩ := step_next_of_admitted (s := s) fun p rest a hi hp => by
        by_contra ha
        exact hx ⟨p, rest, a, hi, hp, by simpa using ha⟩
      exact ⟨by simp [ht], fun ⟨r, hr⟩ => by simp [ht] at hr, fun h => absurd h hx⟩

end Sys2Proof.Machine

/-! Waiting for an answer (R55), and O32. `State.HeldSince` says what an unanswered edge keeps, whatever the host and other
writers of `CTLREG` do at it; it composes, so a run of such edges keeps it by induction on the edges. The latch `L_SCMD` is
part of it because the block's next edge in `S_CMD` reads it again. -/

namespace Sys2Proof.Machine

open Sys2Proof

variable {s t u : State}

/-- `t` holds the state register, `L_SCMD` and `RESULT` of `s`, and only host reads have been recorded since. -/
structure State.HeldSince (s t : State) : Prop where
  fsm : t.fsm = s.fsm
  lScmd : t.lScmd = s.lScmd
  result : t.result = s.result
  reads : ∃ rs, t.trace = rs ++ s.trace ∧ ∀ e ∈ rs, ∃ off v, e = PortEvent.hostRead off v

theorem State.HeldSince.of_eq (hf : t.fsm = s.fsm) (hl : t.lScmd = s.lScmd) (hr : t.result = s.result)
    (ht : t.trace = s.trace) : s.HeldSince t :=
  ⟨hf, hl, hr, [], ht, by simp⟩

theorem State.HeldSince.trans (h : s.HeldSince t) (h' : t.HeldSince u) : s.HeldSince u := by
  obtain ⟨hf, hl, hr, rs, ht, hrs⟩ := h
  obtain ⟨hf', hl', hr', rs', ht', hrs'⟩ := h'
  refine ⟨hf'.trans hf, hl'.trans hl, hr'.trans hr, rs' ++ rs, by rw [ht', ht, List.append_assoc], fun e he => ?_⟩
  rcases List.mem_append.mp he with he | he
  · exact hrs' e he
  · exact hrs e he

theorem hostPhase_busy_trace (hb : s.fsm ≠ .idle) (h : s.hostPhase = .next t) :
    ∃ rs, t.trace = rs ++ s.trace ∧ ∀ e ∈ rs, ∃ off v, e = PortEvent.hostRead off v := by
  rcases hostPhase_cases h with ⟨_, rfl⟩ | ⟨off, _, _, rfl⟩ | ⟨off, v, _, _, _, rfl⟩ | ⟨v, _, he⟩
  · exact ⟨[], rfl, by simp⟩
  · obtain ⟨v, hv⟩ := hostRead_trace (s := s) off
    exact ⟨[.hostRead off v], hv, by simp⟩
  · exact ⟨[], by rw [hostWrite_frame]; rfl, by simp⟩
  · rw [exec_command_busy _ (decodeCmd_format v) hb] at he
    injection he with he
    subst he
    exact ⟨[], rfl, by simp⟩

/-- While the block is busy, no host access disturbs what the wait holds. -/
theorem hostPhase_busy_held (hb : s.fsm ≠ .idle) (h : s.hostPhase = .next t) : s.HeldSince t := by
  have ht := hostPhase_busy hb h
  exact ⟨by rw [ht], by rw [ht], by rw [ht], hostPhase_busy_trace hb h⟩

/-- The block's part of an edge of a transaction that brings no answer only leaves the `ENTER` phase (R53). -/
theorem blockNext_unanswered (hf : s.fsm.onCmdPort = true ∨ s.fsm = .iRtr)
    (h7 : s.fsm ≠ .sCmd ∨ portMode s.lScmd ≠ 7) (hc : s.pins.cmdDone = false) (hr : s.pins.rtrDone = false) :
    blockNext s.fsm s = { s with cphase := .wait } := by
  have waiting (hp : s.cphase = .wait) : s = { s with cphase := .wait } := by rw [← hp]
  rcases hf with hf | hf
  · rcases blockNext_onCmdPort hf with ⟨_, _, _, h | h | h⟩ | h
    · exact h.2
    · exact h.2.2.trans (waiting h.1)
    · rw [hc] at h
      exact absurd h.2.1 (by decide)
    · rcases h7 with h7 | h7
      · exact absurd h.1 h7
      · exact absurd h.2.1 h7
  · have hb : blockNext s.fsm s = s.stepRtr := by rw [hf]; rfl
    rw [hb]
    cases hp : s.cphase with
    | enter => simp only [State.stepRtr, hp]
    | wait =>
      simp only [State.stepRtr, hp, hr, Bool.false_eq_true, if_false]
      exact waiting hp

theorem unanswered_cases {e : Edge} (h : e.unanswered = true) :
    ∃ p : Pins, e = .clock p ∧ p.cmdDone = false ∧ p.rtrDone = false ∧ ∀ a, p.host = some a → a.admitted = true := by
  cases e with
  | reset _ => cases h
  | clock p =>
    obtain ⟨hc, hr, ha⟩ : p.cmdDone = false ∧ p.rtrDone = false ∧ (p.host.map HostAccess.admitted).getD true = true := by
      simpa [Edge.unanswered, and_assoc] using h
    exact ⟨p, rfl, hc, hr, fun a hp => by simpa [hp] using ha⟩

theorem ne_idle_of_transaction {f : Fsm} (hf : f.onCmdPort = true ∨ f = .iRtr) : f ≠ .idle := by
  rintro rfl
  rcases hf with hf | hf <;> cases hf

/-- One unanswered edge: the block is still in its command state. -/
theorem step_unanswered {e : Edge} {rest : List Edge} (hf : s.fsm.onCmdPort = true ∨ s.fsm = .iRtr)
    (h7 : s.fsm ≠ .sCmd ∨ portMode s.lScmd ≠ 7) (hi : s.inputs = e :: rest) (he : e.unanswered = true) :
    ∃ t, step s = .next t ∧ s.HeldSince t ∧ t.inputs = rest := by
  obtain ⟨p, rfl, hc, hr, ha⟩ := unanswered_cases he
  obtain ⟨u, hu⟩ : ∃ u, s.dropCtlOut.hostPhase = .next u :=
    hostPhase_admitted (by rwa [dropCtlOut_pins, pins_clock hi])
  obtain ⟨_, _, _, _, _, _, _, hin, _⟩ := hostPhase_frame hu
  have hpins : u.pins = p := pins_clock (hin.trans hi)
  have held : s.HeldSince u :=
    .trans (t := s.dropCtlOut) (.of_eq rfl rfl rfl rfl) (hostPhase_busy_held (ne_idle_of_transaction hf) hu)
  have hb : blockNext s.fsm u = { u with cphase := .wait } := by
    rw [← held.fsm] at hf h7 ⊢
    rw [← held.lScmd] at h7
    exact blockNext_unanswered hf h7 (by rw [hpins, hc]) (by rw [hpins, hr])
  refine ⟨_, step_clock hi hu, ?_, ?_⟩ <;> rw [hb, ctlEdge_frame]
  · exact held.trans (.of_eq rfl rfl rfl rfl)
  · simp [hin, hi]

/-- Any number of unanswered edges. -/
theorem run_unanswered (es : List Edge) {rest : List Edge} (hf : s.fsm.onCmdPort = true ∨ s.fsm = .iRtr)
    (h7 : s.fsm ≠ .sCmd ∨ portMode s.lScmd ≠ 7) (hi : s.inputs = es ++ rest) (hes : es.all Edge.unanswered = true) :
    ∃ t, runSteps es.length s = .next t ∧ s.HeldSince t ∧ t.inputs = rest := by
  induction es generalizing s with
  | nil => exact ⟨s, rfl, .of_eq rfl rfl rfl rfl, hi⟩
  | cons e es ih =>
    simp only [List.all_cons, Bool.and_eq_true] at hes
    obtain ⟨u, hu, held, hin⟩ := step_unanswered hf h7 hi hes.1
    obtain ⟨t, ht, held', hrest⟩ := ih (by rwa [held.fsm]) (by rwa [held.fsm, held.lScmd]) hin hes.2
    exact ⟨t, by simp only [List.length_cons, runSteps, hu, ht], held.trans held', hrest⟩

/-- Settles O32: `BUSY` is that the state register is not `IDLE`, and a run of unanswered edges holds the state register. -/
theorem noAnswerIsAHang : Obligations.NoAnswerIsAHang := by
  unfold Obligations.NoAnswerIsAHang
  intro es rest s hf h7 hi hes
  obtain ⟨t, ht, held, hin⟩ := run_unanswered es hf h7 hi hes
  have hbusy : t.busy = true := by
    rw [busy_eq_decide, held.fsm, decide_eq_true (ne_idle_of_transaction hf)]
  exact ⟨t, ht, held.fsm, hbusy, held.result, hin, held.reads⟩

end Sys2Proof.Machine

/-! The words the block builds: port words (R71, R82) with O23, mode-register payloads and the two CAS maps (R73, R77, R78)
with O39. R82 writes a port word as an `|||` of shifted fields and the model as a concatenation; `packPort_eq_or` says once
that the two agree. -/

namespace Sys2Proof.Machine

open Sys2Proof BitVec

/-- In each of the four ranges of bits one field answers, and the shift or the width of every other one leaves a 0 there. -/
theorem packPort_eq_or (a : BitVec 3) (t : BitVec 2) (n : BitVec 4) (m : BitVec 14) :
    packPort a t n m = a.setWidth 23 ||| n.setWidth 23 <<< 5 ||| t.setWidth 23 <<< 3 ||| m.setWidth 23 <<< 9 := by
  apply eq_of_getLsbD_eq; intro i hi
  simp only [packPort, getLsbD_append, getLsbD_or, getLsbD_shiftLeft, getLsbD_setWidth]
  obtain h | ⟨h, h'⟩ | ⟨h, h'⟩ | h : i < 3 ∨ 3 ≤ i ∧ i < 5 ∨ 5 ≤ i ∧ i < 9 ∨ 9 ≤ i := by omega
  all_goals simp (disch := omega) [decide_eq_true, decide_eq_false, if_pos, if_neg, getLsbD_of_ge, Nat.sub_sub]

/-- Settles O23: the state register selects a row of R82's table, and its packed word is the `|||` of its fields. -/
theorem portWordsBuilt : Obligations.PortWordsBuilt := by
  unfold Obligations.PortWordsBuilt
  rintro s t u rfl rfl
  refine ⟨?iCke, ?iPall, ?iAref, ?iLmr, ?dPd, ?mLmr, ?sCmd, ?iRtr⟩
  case iCke | iPall | iLmr | dPd | mLmr =>
    intro h
    simp [State.portWord, h, packPort_eq_or]
  case iAref =>
    intro h h8
    have hn : arefNrfsM1 s.params = 7 := by simp [arefNrfsM1, h8]
    simp [State.portWord, h, hn, packPort_eq_or]
  case sCmd =>
    intro h
    rw [State.portWord, h]
  case iRtr => exact fun h => if_pos h

/-- Compared bit by bit: the mask `0x038F` of R73 keeps just the bits that the concatenation takes from `c`. -/
theorem mrBuild_eq_append (c : BitVec 14) (m : BitVec 3) :
    mrBuild c m =
      (0 : BitVec 4) ++ c.extractLsb' 9 1 ++ c.extractLsb' 7 2 ++ m ++ c.extractLsb' 3 1 ++ c.extractLsb' 0 3 := by
  apply eq_of_getLsbD_eq; intro i hi
  simp only [mrBuild, getLsbD_extractLsb', getLsbD_and, getLsbD_or, getLsbD_append, getLsbD_shiftLeft, getLsbD_setWidth]
  interval_cases i <;> simp

theorem casCtlToMr_of_ne {c : BitVec 2} (h : c ≠ 0b10) : casCtlToMr c = 0b011 := if_neg h

theorem casMrToCtl_of_ne {m : BitVec 3} (h : m ≠ 0b010) : casMrToCtl m = 0b11 := if_neg h

/-- The default of R77 is a code that R78 maps to `0b11`, so only `0b10` comes back as anything else. -/
theorem casMrToCtl_casCtlToMr (c : BitVec 2) :
    casMrToCtl (casCtlToMr c) = if c = 0b10 ∨ c = 0b11 then c else 0b11 := by
  by_cases h2 : c = 0b10
  · subst h2; rfl
  · rw [casCtlToMr_of_ne h2, casMrToCtl_of_ne (by decide)]
    by_cases h3 : c = 0b11
    · subst h3; rfl
    · rw [if_neg (not_or.mpr ⟨h2, h3⟩)]

/-- Settles O39: the concatenation and the composition are the lemmas above, and each value of the two maps evaluates. -/
theorem modeRegisterAndCasMaps : Obligations.ModeRegisterAndCasMaps := by
  unfold Obligations.ModeRegisterAndCasMaps
  exact ⟨mrBuild_eq_append, rfl, rfl, rfl, rfl, rfl, rfl, fun _ => casMrToCtl_of_ne, casMrToCtl_casCtlToMr⟩

end Sys2Proof.Machine

/-! INIT's acceptance with O8, and its four commands on the controller port with O24 to O27 (R85, R87, R89, R90, R92). Each of
the four command states has a row of R82's table, which names its port word, and an equation of `State.cmdResponse`; that
equation takes `Ok` on to the next state and `Fail` to `State.initFail`. What is common to the four answering edges is
`exec_initCommand_answered`. -/

namespace Sys2Proof.Machine

open Sys2Proof

variable {s : State}

/-! Acceptance. -/

theorem decodeCmd_init {w : Word} (h : cmdOp w = 1) : decodeCmd w = .init := by
  simp only [decodeCmd, h]
  rfl

/-- An operation that ends at its dispatch, with none of its own fields written, leaves `RESULT` and `RESVAL` written only. -/
theorem finish_clearResult_idle (hf : s.fsm = .idle) (op : BitVec 4) (c : StatusCode) (r : Reason) :
    (s.clearResult op).finish c r = { s with result := { resultOfOp op with code := c, reason := r }, resval := 0 } := by
  rw [State.finish, ← hf]
  rfl

theorem acceptInit_of_not_valid (hv : cfgValid s.cfg0 = false) :
    s.acceptInit = s.finish .invalidParameter .nullConfig := by
  simp [State.acceptInit, hv]

theorem acceptInit_of_valid (hv : cfgValid s.cfg0 = true) :
    s.acceptInit =
      ({ s with lCfg0 := s.cfg0.extractLsb' 0 14, lCfg1 := s.cfg1, attached := false } : State).start .iCke :=
  if_pos hv

/-- Settles O8: in `IDLE` dispatch clears `RESULT`, and `VALID` then selects one of the two branches of the acceptance. -/
theorem initAcceptance : Obligations.InitAcceptance := by
  unfold Obligations.InitAcceptance
  refine ⟨fun w => decodeCmd_init, fun s hf => ?_⟩
  rw [exec_command_idle .init rfl hf, commandBody]
  refine ⟨fun hv => ?notValid, fun hv => ?valid⟩
  case notValid =>
    rw [acceptInit_of_not_valid (s := s.clearResult 1) hv, finish_clearResult_idle hf]
    rfl
  case valid =>
    rw [acceptInit_of_valid (s := s.clearResult 1) hv]
    rfl

/-! The commands of INIT: the row of R82's table and the response of each state. -/

theorem portWord_iCke (h : s.fsm = .iCke) : s.portWord = some (packPort 1 (latchTarget s.lCfg0) 0 0) := by
  rw [State.portWord, h]

theorem portWord_iPall (h : s.fsm = .iPall) : s.portWord = some (packPort 2 (latchTarget s.lCfg0) 0 0) := by
  rw [State.portWord, h]

theorem portWord_iAref (h : s.fsm = .iAref) :
    s.portWord = some (packPort 3 (latchTarget s.lCfg0) (arefNrfsM1 s.params) 0) := by
  rw [State.portWord, h]

theorem portWord_iLmr (h : s.fsm = .iLmr) : s.portWord = some (packPort 4 (latchTarget s.lCfg0) 0 s.lMr) := by
  rw [State.portWord, h]

theorem cmdResponse_iCke (h : s.fsm = .iCke) (ok : Bool) :
    s.cmdResponse ok = if ok then { s with dcnt := 0, fsm := .iDly } else s.initFail 1 := by
  simp only [State.cmdResponse, h]

theorem cmdResponse_iPall (h : s.fsm = .iPall) (ok : Bool) :
    s.cmdResponse ok = if ok then s.enter .iAref else s.initFail 3 := by
  simp only [State.cmdResponse, h]

theorem cmdResponse_iAref (h : s.fsm = .iAref) (ok : Bool) :
    s.cmdResponse ok = if ok then { s with fsm := .iRdcas } else s.initFail 4 := by
  simp only [State.cmdResponse, h]

theorem cmdResponse_iLmr (h : s.fsm = .iLmr) (ok : Bool) :
    s.cmdResponse ok = if ok then { s with fsm := .iRecon } else s.initFail 5 := by
  simp only [State.cmdResponse, h]

/-- R81: the count field of the step-4 command. The legal counts 1 to 16 are the values of the field plus 1. -/
theorem eq_arefNrfsM1 {p : Params} {n : BitVec 4} (h : n.toNat + 1 = p.arefCount) : n = arefNrfsM1 p := by
  rw [arefNrfsM1, ← h, Nat.add_sub_cancel, BitVec.ofNat_toNat, BitVec.setWidth_eq]

/-- The answering edge of a command of INIT whose response leads to `t` on `Ok` and takes the failure exit of step `k` on
`Fail`: the answer is recorded, and then one of the two happens (R53, R95). -/
theorem exec_initCommand_answered {w : PortWord} {k : BitVec 3} {t : State}
    (hok : (s.record (.cmd w true)).cmdResponse true = t)
    (hfail : (s.record (.cmd w false)).cmdResponse false = (s.record (.cmd w false)).initFail k)
    (hf : s.fsm.onCmdPort = true) (hm : portMode w ≠ 7) (hp : s.cphase = .wait) (hd : s.pins.cmdDone = true) :
    (s.pins.cmdOk = true → exec (decodePort w) s = .next t) ∧
    (s.pins.cmdOk = false →
      exec (decodePort w) s = .next { s with
        cfga0 := 0, cfga1 := 0, attached := false
        result := { s.result with step := k, code := .error, reason := .none }
        fsm := .idle, trace := .cmd w false :: s.trace }) := by
  rw [exec_decodePort_done w hf hm hp hd]
  refine ⟨fun ho => ?_, fun ho => ?_⟩
  · rw [ho, hok]
  · rw [ho, hfail]
    rfl

/-- Settles O24: the response of `I_CKE` at its answering edge. -/
theorem clockEnableStep : Obligations.ClockEnableStep := by
  unfold Obligations.ClockEnableStep
  rintro s w hf hp hd rfl
  exact ⟨portWord_iCke hf, decodePort_packPort 1 _ _ _,
    exec_initCommand_answered (cmdResponse_iCke (s := s.record _) hf true) (cmdResponse_iCke (s := s.record _) hf false)
      (by rw [hf]; rfl) (by simp) hp hd⟩

/-- Settles O25: the response of `I_PALL` at its answering edge. -/
theorem prechargeStep : Obligations.PrechargeStep := by
  unfold Obligations.PrechargeStep
  rintro s w hf hp hd rfl
  exact ⟨portWord_iPall hf, decodePort_packPort 2 _ _ _,
    exec_initCommand_answered (cmdResponse_iPall (s := s.record _) hf true) (cmdResponse_iPall (s := s.record _) hf false)
      (by rw [hf]; rfl) (by simp) hp hd⟩

/-- Settles O26: the count given is the one of `I_AREF`'s port word, so one command carries it whole; then the response of
`I_AREF`. -/
theorem autoRefreshStep : Obligations.AutoRefreshStep := by
  unfold Obligations.AutoRefreshStep
  rintro s w n hf hp hd hn rfl
  rw [eq_arefNrfsM1 hn]
  exact ⟨portWord_iAref hf, decodePort_packPort 3 _ _ _,
    exec_initCommand_answered (cmdResponse_iAref (s := s.record _) hf true) (cmdResponse_iAref (s := s.record _) hf false)
      (by rw [hf]; rfl) (by simp) hp hd⟩

/-- Settles O27: the response of `I_LMR` at its answering edge. -/
theorem loadModeStep : Obligations.LoadModeStep := by
  unfold Obligations.LoadModeStep
  rintro s w hf hp hd rfl
  exact ⟨portWord_iLmr hf, decodePort_packPort 4 _ _ _,
    exec_initCommand_answered (cmdResponse_iLmr (s := s.record _) hf true) (cmdResponse_iLmr (s := s.record _) hf false)
      (by rw [hf]; rfl) (by simp) hp hd⟩

end Sys2Proof.Machine

/-! The commands NOP, DEINIT and SETMR (R103, R105, R107): NOP with O6, the power-down of DEINIT with O28 and the load-mode
command of SETMR with O29. `D_PD` and `M_LMR` have a row of R82's table and an equation of `State.cmdResponse` each, as the
command states of INIT have; which bits SETMR writes is read off `setmrCfga0` once, in `setmrCfga0_getLsbD`. -/

namespace Sys2Proof.Machine

open Sys2Proof

variable {s : State}

/-! NOP. -/

theorem decodeCmd_nop {w : Word} (h : cmdOp w = 0) : decodeCmd w = .nop := by
  simp only [decodeCmd, h]
  rfl

/-- Settles O6: in `IDLE` the body of NOP is the state itself, and while busy every command is rejected. -/
theorem nopResult : Obligations.NopResult := by
  unfold Obligations.NopResult
  exact ⟨fun s => exec_command_idle .nop rfl, fun s => exec_command_busy .nop rfl, fun w => decodeCmd_nop⟩

/-! DEINIT's power-down. -/

theorem portWord_dPd (h : s.fsm = .dPd) : s.portWord = some (packPort 6 s.lTgt 0 0) := by
  rw [State.portWord, h]

theorem cmdResponse_dPd (h : s.fsm = .dPd) (ok : Bool) : s.cmdResponse ok = s.detach.finish .ok .none := by
  simp only [State.cmdResponse, h]

/-- A cycle of a transaction with no answer in it, after the `ENTER` cycle (R53). -/
theorem exec_decodePort_waiting (w : PortWord) (h : s.fsm.onCmdPort = true) (hm : portMode w ≠ 7) (hp : s.cphase = .wait)
    (hd : s.pins.cmdDone = false) : exec (decodePort w) s = .next s := by
  rw [exec_decodePort, if_neg hm, ctlCmd_waiting w h hp hd]

/-- Settles O28: the transaction waits for its answer, and the response of `D_PD` is the same for `Ok` and `Fail`. -/
theorem powerDownStep : Obligations.PowerDownStep := by
  unfold Obligations.PowerDownStep
  rintro s w hf hp rfl
  have hc : s.fsm.onCmdPort = true := by rw [hf]; rfl
  have hm : portMode (packPort 6 s.lTgt 0 0) ≠ 7 := by simp
  refine ⟨portWord_dPd hf, decodePort_packPort 6 _ _ _, exec_decodePort_waiting _ hc hm hp, fun hd => ?answered⟩
  case answered =>
    rw [exec_decodePort_done _ hc hm hp hd, cmdResponse_dPd (s := s.record _) hf]
    rfl

/-! SETMR's load-mode command. -/

theorem portWord_mLmr (h : s.fsm = .mLmr) : s.portWord = some (packPort 4 s.lTgt 0 s.lMr) := by
  rw [State.portWord, h]

theorem cmdResponse_mLmr (h : s.fsm = .mLmr) (ok : Bool) :
    s.cmdResponse ok =
      if ok then ({ s with cfga0 := setmrCfga0 s.cfga0 s.lMr } : State).finish .ok .none
      else s.finish .error .none := by
  simp only [State.cmdResponse, h]

/-- The fields BL, BT, CAS and WB together: bits 6:0 and bit 9 (R34, R72). -/
theorem setmrMask_getLsbD (k : Nat) : (0x27F : Word).getLsbD k = decide (k < 7 ∨ k = 9) := by
  obtain h | h : k < 32 ∨ 32 ≤ k := by omega
  · interval_cases k <;> rfl
  · rw [BitVec.getLsbD_of_ge _ _ h, decide_eq_false (by omega)]

/-- R107, bit by bit: a bit of one of the four fields comes from the payload, and every other one stays. -/
theorem setmrCfga0_getLsbD (a : Word) (m : BitVec 14) (k : Nat) :
    (setmrCfga0 a m).getLsbD k = if k < 7 ∨ k = 9 then m.getLsbD k else a.getLsbD k := by
  have hm : (m &&& 0x27F).setWidth 32 = m.setWidth 32 &&& (0x27F : Word) := by rw [BitVec.setWidth_and]; rfl
  rw [setmrCfga0, hm]
  simp only [BitVec.getLsbD_or, BitVec.getLsbD_and, BitVec.getLsbD_not, BitVec.getLsbD_setWidth, setmrMask_getLsbD]
  split
  case isTrue h => simp [h, show k < 32 by omega]
  case isFalse h => simpa [h] using BitVec.lt_of_getLsbD

/-- Settles O29: the response of `M_LMR` at its answering edge; the word it stores on `Ok` is `setmrCfga0`. -/
theorem setModeStep : Obligations.SetModeStep := by
  unfold Obligations.SetModeStep
  rintro s w hf hp hd rfl
  have hdone := exec_decodePort_done (packPort 4 s.lTgt 0 s.lMr) (by rw [hf]; rfl) (by simp) hp hd
  rw [cmdResponse_mLmr (s := s.record _) hf] at hdone
  refine ⟨portWord_mLmr hf, decodePort_packPort 4 _ _ _, fun ho => ?ok, fun ho => ?fail⟩
  case ok =>
    rw [ho] at hdone
    exact ⟨setmrCfga0 s.cfga0 s.lMr, hdone,
      fun k hk => by rw [setmrCfga0_getLsbD, if_pos hk], fun k hk => by rw [setmrCfga0_getLsbD, if_neg hk]⟩
  case fail =>
    rw [ho] at hdone
    exact hdone

end Sys2Proof.Machine

/-! The validator (R109 to R120): what the range check, the alignment test and the refresh count answer, with O12 and O15; and
the three validator commands and the reserved encodings, with O13, O14, O16 and O19. Each of these commands ends at its
dispatch, so in `IDLE` it writes `RESULT` and `RESVAL` only (`finish_clearResult_idle`, `finish_of_idle`), and what is left to
say is which code and reason its own rule gives. -/

namespace Sys2Proof.Machine

open Sys2Proof

variable {s : State}

/-! The range check (R111). -/

/-- The four conditions of R111 in the source's order, each with its answer. -/
theorem checkRange_cases (c o n : Nat) :
    (c ≤ o ∧ checkRange c o n = (.invalidParameter, .offsetRange)) ∨
    (o < c ∧ n = 0 ∧ checkRange c o n = (.invalidParameter, .zeroSize)) ∨
    (o < c ∧ n ≠ 0 ∧ c < o + n ∧ checkRange c o n = (.invalidParameter, .endRange)) ∨
    (0 < n ∧ o + n ≤ c ∧ checkRange c o n = (.ok, .none)) := by
  unfold checkRange
  by_cases hoff : c ≤ o
  · exact .inl ⟨hoff, if_pos hoff⟩
  rw [if_neg hoff]
  by_cases hzero : n = 0
  · exact .inr (.inl ⟨by omega, hzero, if_pos hzero⟩)
  rw [if_neg hzero]
  by_cases hend : c - o < n
  · exact .inr (.inr (.inl ⟨by omega, hzero, by omega, if_pos hend⟩))
  · exact .inr (.inr (.inr ⟨by omega, by omega, if_neg hend⟩))

/-- Settles O12: the four cases of the check exclude each other, and their answers differ. -/
theorem rangeCheckMeaning : Obligations.RangeCheckMeaning := by
  unfold Obligations.RangeCheckMeaning
  intro c o n
  obtain ⟨hoff, h⟩ | ⟨ho, hzero, h⟩ | ⟨ho, hn, hend, h⟩ | ⟨hn, hfit, h⟩ := checkRange_cases c o n
  all_goals
    simp only [h, Prod.mk.injEq, reduceCtorEq, and_self, and_false, true_iff, false_iff]
    omega

/-! The alignment test (R115). -/

theorem alignedTo_iff (a d e : Nat) : alignedTo a d e = true ↔ a % e = 0 ∧ d % e = 0 := by
  simp [alignedTo]

theorem alignedTo_eq_decide (a d e : Nat) : alignedTo a d e = decide (a % e = 0 ∧ d % e = 0) := by
  rw [Bool.eq_iff_iff, alignedTo_iff, decide_eq_true_iff]

theorem alignedTo_one (a d : Nat) : alignedTo a d 1 = true :=
  (alignedTo_iff a d 1).mpr ⟨Nat.mod_one a, Nat.mod_one d⟩

/-- The test reads an address only modulo the element size. -/
theorem alignedTo_add_of_dvd {b e : Nat} (h : e ∣ b) (a d : Nat) : alignedTo a (b + d) e = alignedTo a d e := by
  obtain ⟨k, rfl⟩ := h
  rw [alignedTo, Nat.mul_add_mod, alignedTo]

/-- R8: the base address is a multiple of every element size. -/
theorem elementSize_dvd_baseAddr (p : Params) {e : Nat} (he : e = 1 ∨ e = 2 ∨ e = 4) : e ∣ p.baseAddr := by
  have h4 := p.baseAddr_mod_four
  rcases he with rfl | rfl | rfl <;> omega

/-- A size that passes the range check fits 32 bits, as the capacity does. -/
theorem size_lt_of_checkRange_ok {p : Params} {o n : Nat} (h : checkRange p.capacity o n = (.ok, .none)) : n < 2 ^ 32 := by
  obtain ⟨hok, -⟩ := rangeCheckMeaning p.capacity o n
  obtain ⟨-, hfit⟩ := hok.mp h
  have hcap := p.capacity_fits
  omega

/-- Settles O15: the test reads the two remainders, and the base has remainder 0 for each of the three sizes. -/
theorem chkaccSizeFitsAndBaseIsNeutral : Obligations.ChkaccSizeFitsAndBaseIsNeutral := by
  unfold Obligations.ChkaccSizeFitsAndBaseIsNeutral
  refine ⟨alignedTo_iff, fun p o n e he => ⟨fun h => ?size, fun a => ?neutral, fun h1 a => ?one⟩⟩
  case size => rw [BitVec.toNat_ofNat, Nat.mod_eq_of_lt (size_lt_of_checkRange_ok h)]
  case neutral => exact alignedTo_add_of_dvd (elementSize_dvd_baseAddr p he) a o
  case one => rw [h1, alignedTo_one]

/-! Ending an operation that has fields of its own to write. -/

/-- In `IDLE` the end of an operation leaves the state register as it is. -/
theorem finish_of_idle (hf : s.fsm = .idle) (c : StatusCode) (r : Reason) :
    s.finish c r = { s with result := { s.result with code := c, reason := r } } := by
  rw [State.finish, ← hf]

/-! CHKRANGE (R113). -/

theorem decodeCmd_chkrange {w : Word} (h : cmdOp w = 5) : decodeCmd w = .chkrange := by
  simp only [decodeCmd, h]
  rfl

theorem checkOffsetLen_of_checkRange {c : StatusCode} {r : Reason}
    (h : checkRange s.params.capacity s.offset.toNat s.len.toNat = (c, r)) : s.checkOffsetLen = s.finish c r := by
  rw [State.checkOffsetLen, h]

/-- Settles O13: in `IDLE` dispatch clears `RESULT`, and the operation ends with what the range check answers. -/
theorem chkrangeResult : Obligations.ChkrangeResult := by
  unfold Obligations.ChkrangeResult
  refine ⟨fun w => decodeCmd_chkrange, fun s c r hf h => ?_⟩
  rw [exec_command_idle .chkrange rfl hf, commandBody, checkOffsetLen_of_checkRange (s := s.clearResult 5) h,
    finish_clearResult_idle hf]
  rfl

/-! CHKACC (R114). -/

/-- A command word is decoded from its two fields, so as any other word that has the same two (R65, R69). -/
theorem decodeCmd_congr {w v : Word} (ho : cmdOp w = cmdOp v) (hw : cmdWidth w = cmdWidth v) :
    decodeCmd w = decodeCmd v := by
  simp only [decodeCmd, ho, hw]

theorem decodeCmd_chkaccB {w : Word} (h : cmdOp w = 6) (hw : cmdWidth w = 0) : decodeCmd w = .chkaccB :=
  decodeCmd_congr (v := encodeWord .chkaccB) h hw

theorem decodeCmd_chkaccH {w : Word} (h : cmdOp w = 6) (hw : cmdWidth w = 1) : decodeCmd w = .chkaccH :=
  decodeCmd_congr (v := encodeWord .chkaccH) h hw

theorem decodeCmd_chkaccW {w : Word} (h : cmdOp w = 6) (hw : cmdWidth w = 2) : decodeCmd w = .chkaccW :=
  decodeCmd_congr (v := encodeWord .chkaccW) h hw

/-- The null test comes before the range check. -/
theorem checkAccess_of_buf_zero (hb : s.buf = 0) (e : Nat) :
    s.checkAccess e = s.finish .invalidParameter .nullBuffer := by
  rw [State.checkAccess, if_pos hb]

theorem checkAccess_of_checkRange_invalid {e : Nat} {r : Reason} (hb : s.buf ≠ 0)
    (h : checkRange s.params.capacity s.offset.toNat (s.len.toNat * e) = (.invalidParameter, r)) :
    s.checkAccess e = s.finish .invalidParameter r := by
  simp only [State.checkAccess, if_neg hb, h, reduceCtorEq, if_false]

theorem checkAccess_of_checkRange_ok {e : Nat} (hb : s.buf ≠ 0)
    (h : checkRange s.params.capacity s.offset.toNat (s.len.toNat * e) = (.ok, .none)) :
    s.checkAccess e =
      ({ s with
        result := { s.result with aligned := alignedTo s.buf.toNat (s.params.baseAddr + s.offset.toNat) e }
        resval := BitVec.ofNat 32 (s.len.toNat * e) } : State).finish .ok .none := by
  simp only [State.checkAccess, if_neg hb, h, if_true]

/-- The three CHKACC instructions are one check, at the element size of each (R67). -/
theorem exec_chkacc_idle {i : Instr} {e : Nat} (hf : s.fsm = .idle)
    (hi : (i, e) ∈ [(Instr.chkaccB, 1), (Instr.chkaccH, 2), (Instr.chkaccW, 4)]) :
    exec i s = .next ((s.clearResult 6).checkAccess e) := by
  simp only [List.mem_cons, List.not_mem_nil, or_false, Prod.mk.injEq] at hi
  obtain ⟨rfl, rfl⟩ | ⟨rfl, rfl⟩ | ⟨rfl, rfl⟩ := hi <;> exact exec_command_idle _ rfl hf

/-- Settles O14: the null test, and then the range check, selects one of the three ends of the check. -/
theorem chkaccResult : Obligations.ChkaccResult := by
  unfold Obligations.ChkaccResult
  refine ⟨fun w h => ⟨decodeCmd_chkaccB h, decodeCmd_chkaccH h, decodeCmd_chkaccW h⟩, fun s i e hf hi => ?_⟩
  rw [exec_chkacc_idle hf hi]
  refine ⟨fun hb => ?null, fun hb r h => ?invalid, fun hb h => ?ok⟩
  case null =>
    rw [checkAccess_of_buf_zero (s := s.clearResult 6) hb, finish_clearResult_idle hf]
    rfl
  case invalid =>
    rw [checkAccess_of_checkRange_invalid (s := s.clearResult 6) hb h, finish_clearResult_idle hf]
    rfl
  case ok =>
    rw [checkAccess_of_checkRange_ok (s := s.clearResult 6) hb h, finish_of_idle, alignedTo_eq_decide]
    · rfl
    · exact hf

/-! CALCREF (R118). -/

theorem decodeCmd_calcref {w : Word} (h : cmdOp w = 7) : decodeCmd w = .calcref := by
  simp only [decodeCmd, h]
  rfl

theorem roundQuot_up (n r : Nat) : roundQuot .up n r = (2 * n + r) / (2 * r) := rfl

theorem calcRefresh_arith (h : s.clkmhz = 0 ∨ 0xFFFFFFFF < refreshCount s.params s.clkmhz.toNat s.refms.toNat) :
    s.calcRefresh = s.finish .invalidParameter .arith := by
  rw [State.calcRefresh]
  split
  case isTrue => rfl
  case isFalse hz => exact if_pos (h.resolve_left hz)

theorem calcRefresh_ok (hz : s.clkmhz ≠ 0) (h : refreshCount s.params s.clkmhz.toNat s.refms.toNat ≤ 0xFFFFFFFF) :
    s.calcRefresh =
      ({ s with resval := BitVec.ofNat 32 (refreshCount s.params s.clkmhz.toNat s.refms.toNat) } : State).finish
        .ok .none := by
  rw [State.calcRefresh, if_neg hz, if_neg (Nat.not_lt.mpr h)]

/-- Settles O16: under `up` the count given is the model's refresh count; a zero clock or an overflow selects the end. -/
theorem calcrefResult : Obligations.CalcrefResult := by
  unfold Obligations.CalcrefResult
  refine ⟨fun w => decodeCmd_calcref, fun s raw cnt hf hup hraw hcnt => ?_⟩
  obtain rfl : cnt = refreshCount s.params s.clkmhz.toNat s.refms.toNat := by
    rw [hcnt, hraw, refreshCount, hup, roundQuot_up]
  rw [exec_command_idle .calcref rfl hf, commandBody]
  refine ⟨fun h => ?arith, fun hz h => ?ok⟩
  case arith =>
    rw [calcRefresh_arith (s := s.clearResult 7) h, finish_clearResult_idle hf]
    rfl
  case ok =>
    rw [calcRefresh_ok (s := s.clearResult 7) hz h, finish_of_idle]
    · rfl
    · exact hf

/-! The reserved encodings (R120). -/

theorem decodeCmd_rsvdChkacc {w : Word} (h : cmdOp w = 6) (hw : cmdWidth w = 3) : decodeCmd w = .rsvdChkacc :=
  decodeCmd_congr (v := encodeWord .rsvdChkacc) h hw

theorem decodeCmd_rsvd {w : Word} (h : 8 ≤ (cmdOp w).toNat) : decodeCmd w = .rsvd (cmdOp w) := by
  unfold decodeCmd
  split
  case h_9 => rfl
  all_goals omega

/-- The reserved values of `OP`, 8 to 15, are those with the top bit set. -/
theorem rsvd_wf_iff (op : BitVec 4) : (Instr.rsvd op).wf = true ↔ 8 ≤ op.toNat := by
  rw [Instr.wf, BitVec.msb_eq_decide, decide_eq_true_iff]

/-- Settles O19: both reserved instructions have one rule, on the result that dispatch cleared for their `OP`. -/
theorem reservedEncodingResult : Obligations.ReservedEncodingResult := by
  unfold Obligations.ReservedEncodingResult
  refine ⟨fun w => ⟨fun h => ⟨decodeCmd_rsvd h, (rsvd_wf_iff _).mpr h⟩, decodeCmd_rsvdChkacc⟩,
    fun s i op hf hi => ?_⟩
  have hexec : exec i s = .next ((s.clearResult op).reservedEncoding) := by
    obtain ⟨rfl, rfl⟩ | ⟨rfl, -⟩ := hi <;> exact exec_command_idle _ rfl hf
  rw [hexec, State.reservedEncoding, finish_clearResult_idle hf]
  rfl

end Sys2Proof.Machine

/-! `STATUS.REJECTED` (R24, R126), and O7. What a step does to it is said once, in `step_rejected_cases`: the bit stays, or one
of its three writers acts. The block's part of an edge and the controller's are no writers (`blockNext_frame`,
`ctlEdge_frame`), so two of the three are host accesses and the third is reset. -/

namespace Sys2Proof.Machine

open Sys2Proof

variable {s t : State}

/-- A host write to an offset other than that of `CMD` clears `REJECTED` by bit 2 of a word for `STATUS`; no other one touches
it. -/
theorem hostWrite_rejected_cases (s : State) (off : Nat) (v : Word) :
    (s.hostWrite off v).rejected = s.rejected ∨
    (off = 4 ∧ v.getLsbD 2 = true ∧ (s.hostWrite off v).rejected = false) := by
  unfold State.hostWrite
  split
  case h_1 =>
    split
    case isTrue hv => exact .inr ⟨rfl, hv, rfl⟩
    case isFalse => exact .inl rfl
  all_goals exact .inl rfl

theorem hostPhase_rejected_cases (h : s.hostPhase = .next t) :
    t.rejected = s.rejected ∨
    (t.rejected = false ∧ ∃ v, s.pins.host = some (.write .word 4 v) ∧ v.getLsbD 2 = true) ∨
    (t.rejected = true ∧ s.fsm ≠ .idle ∧ ∃ v, s.pins.host = some (.write .word 0 v)) := by
  rcases hostPhase_cases h with ⟨_, rfl⟩ | ⟨off, _, _, rfl⟩ | ⟨off, v, hp, _, _, rfl⟩ | ⟨v, hp, he⟩
  · exact .inl rfl
  · exact .inl (by rw [hostRead_frame])
  · rcases hostWrite_rejected_cases s off v with hr | ⟨rfl, hv, hr⟩
    · exact .inl hr
    · exact .inr (.inl ⟨hr, v, hp, hv⟩)
  · by_cases hb : s.fsm = .idle
    · exact .inl (by rw [hostPhase_idle_command hb v he, commandBody_frame])
    · rw [exec_command_busy _ (decodeCmd_format v) hb] at he
      injection he with he
      subst he
      exact .inr (.inr ⟨rfl, hb, v, hp⟩)

theorem resetEdge_rejected (s : State) (other : Option Word) : (s.resetEdge other).rejected = false := by
  obtain ⟨_, _, h⟩ := resetEdge_parts s other
  rw [h]
  rfl

/-- The writers of `REJECTED` at an edge: reset and a `STATUS` write clear it, a `CMD` write while busy sets it. -/
theorem step_rejected_cases (h : step s = .next t) :
    t.rejected = s.rejected ∨
    (t.rejected = false ∧ ((∃ o rest, s.inputs = .reset o :: rest) ∨
      ∃ v, s.pins.host = some (.write .word 4 v) ∧ v.getLsbD 2 = true)) ∨
    (t.rejected = true ∧ s.fsm ≠ .idle ∧ ∃ v, s.pins.host = some (.write .word 0 v)) := by
  rcases step_cases h with ⟨o, rest, hi, rfl⟩ | ⟨_, u, hu, rfl⟩
  · exact .inr (.inl ⟨resetEdge_rejected s o, .inl ⟨o, rest, hi⟩⟩)
  · rw [ctlEdge_frame, blockNext_frame]
    obtain hr | ⟨hr, hw⟩ | hr := hostPhase_rejected_cases hu
    · exact .inl hr
    · exact .inr (.inl ⟨hr, .inr hw⟩)
    · exact .inr (.inr hr)

/-- Settles O7: dispatch rejects every command while busy, and a step that changes the bit is one of its writers. -/
theorem busyCommandRejected : Obligations.BusyCommandRejected := by
  unfold Obligations.BusyCommandRejected
  refine ⟨fun s i => exec_command_busy i, fun s t h hs ht => ?cleared, fun s t h hs ht => ?set⟩
  case cleared =>
    obtain hr | ⟨_, hw⟩ | ⟨hr, _⟩ := step_rejected_cases h
    · simp [hs, ht] at hr
    · exact hw
    · simp [ht] at hr
  case set =>
    obtain hr | ⟨hr, _⟩ | ⟨_, hw⟩ := step_rejected_cases h
    · simp [hs, ht] at hr
    · simp [ht] at hr
    · exact hw

end Sys2Proof.Machine

/-! A `CMD` write at an edge of a running operation (R126, R144), and O47; and the reset values (R140), O49. Of the edge with the
write and the edge without it, the block's and the controller's parts start from states that differ in `REJECTED` and in the
inputs, and those two pass through both parts untouched. -/

namespace Sys2Proof.Machine

open Sys2Proof

variable {s : State}

/-- The block's part of an edge carries `REJECTED` and the inputs through, where the pins it reads are the same. -/
theorem blockNext_rejected_inputs (f : Fsm) (r : Bool) (es : List Edge)
    (hp : ({ s with inputs := es } : State).pins.sameForBlock s.pins) :
    blockNext f { s with rejected := r, inputs := es } = { blockNext f s with rejected := r, inputs := es } := by
  obtain ⟨new, htrace, hnext⟩ :=
    blockNext_outside f s { s with rejected := r, inputs := es } s.trace hp fun _ => rfl
  rw [← htrace, blockNext_frame f s] at hnext
  rw [blockNext_frame f s]
  exact hnext

/-- The controller's part carries them through too. -/
theorem ctlEdge_rejected_inputs (out other : Option Word) (r : Bool) (es : List Edge) :
    ({ s with rejected := r, inputs := es } : State).ctlEdge out other =
      { s.ctlEdge out other with rejected := r, inputs := es } := by
  cases out <;> cases other <;> rfl

/-- So everything after the host's part of an edge carries `REJECTED` through; the inputs of the cycle are gone at its end. -/
theorem afterHost_rejected (f : Fsm) (out other : Option Word) (r : Bool) {es : List Edge}
    (hp : ({ s with inputs := es } : State).pins.sameForBlock s.pins) (ht : es.tail = s.inputs.tail) :
    ((blockNext f { s with rejected := r, inputs := es }).ctlEdge out other).advance =
      { ((blockNext f s).ctlEdge out other).advance with rejected := r } := by
  have hin : ((blockNext f s).ctlEdge out other).inputs = s.inputs := by rw [ctlEdge_frame, blockNext_frame]
  rw [blockNext_rejected_inputs f r es hp, ctlEdge_rejected_inputs]
  simp only [State.advance, ht, hin]

/-- While the block is busy the host's part of an edge with a `CMD` write is the rejection, whatever the word (R126). -/
theorem hostPhase_busy_command {v : Word} (hb : s.fsm ≠ .idle) (h : s.pins.host = some (.write .word 0 v)) :
    s.hostPhase = .next s.reject := by
  simp [State.hostPhase, h, exec_command_busy _ (decodeCmd_format v) hb]

/-- A clock edge of a running operation at which the host writes `CMD`. -/
theorem step_clock_busy_command {p : Pins} {rest : List Edge} {v : Word} (hb : s.fsm ≠ .idle)
    (hi : s.inputs = .clock p :: rest) (hp : p.host = some (.write .word 0 v)) :
    step s = .next ((blockNext s.fsm s.dropCtlOut.reject).ctlEdge s.ctlOut p.ctlOther).advance :=
  step_clock hi (hostPhase_busy_command hb (by rwa [dropCtlOut_pins, pins_clock hi]))

/-- Settles O47: the write rejects, and `REJECTED` is carried through the rest of the edge. -/
theorem commandAtFinishingEdge : Obligations.CommandAtFinishingEdge := by
  unfold Obligations.CommandAtFinishingEdge
  intro s p rest v t hb hp h
  rw [step_clock_quiet rfl hp] at h
  injection h with h
  have hrejected := afterHost_rejected (s := ({ s with inputs := .clock p :: rest } : State).dropCtlOut) s.fsm s.ctlOut
    p.ctlOther true (es := .clock { p with host := some (.write .word 0 v) } :: rest) ⟨rfl, rfl, rfl, rfl, rfl⟩ rfl
  calc step { s with inputs := .clock { p with host := some (.write .word 0 v) } :: rest }
    _ = .next _ := step_clock_busy_command hb rfl rfl
    _ = .next { t with rejected := true } := by rw [← h]; exact congrArg Host.Outcome.next hrejected

/-- Settles O49: a closed fact about the one state `State.reset`, register by register. -/
theorem resetValues : Obligations.ResetValues := by
  unfold Obligations.ResetValues
  refine ⟨?registers, ?capacity, ?block⟩
  case registers => decide
  case capacity => rfl
  case block => decide

end Sys2Proof.Machine

/-! Decoding what the encoder writes, with O1, and two facts about the decoder alone, O2 and O3. A command word is put together
again from its four lanes (`byteLanes_word`), a port word from its three (`portLanes_word`), so that each format's decoder runs
on the encoded word itself; what is left is one evaluation per row of the opcode table. -/

namespace Sys2Proof

/-! The command words. -/

theorem decode_cmd32_lanes (w : Word) :
    decode .cmd32 [byteLane w 0, byteLane w 1, byteLane w 2, byteLane w 3] = .ok (decodeCmd w) := by
  rw [decode, byteLanes_word]

theorem cmdOp_setWidth (op : BitVec 4) : cmdOp (op.setWidth 32) = op := by
  apply BitVec.eq_of_getLsbD_eq; intro i hi
  simp [cmdOp, BitVec.getLsbD_setWidth, hi]
  omega

/-- A reserved `OP` fills the whole of its word (R69, R120). -/
theorem decodeCmd_encodeWord_rsvd {op : BitVec 4} (h : (Instr.rsvd op).wf = true) :
    decodeCmd (encodeWord (.rsvd op)) = .rsvd op := by
  have hop : cmdOp (encodeWord (.rsvd op)) = op := cmdOp_setWidth op
  rw [Machine.decodeCmd_rsvd (by rw [hop]; exact (Machine.rsvd_wf_iff op).mp h), hop]

theorem decodeCmd_encodeWord {i : Instr} (hw : i.wf = true) (hf : i.format = .cmd32) :
    decodeCmd (encodeWord i) = i := by
  cases i with
  | rsvd op => exact decodeCmd_encodeWord_rsvd hw
  | nop | init | deinit | setmr | sendcmd | chkrange | chkaccB | chkaccH | chkaccW | rsvdChkacc | calcref => rfl
  | _ => cases hf

/-! The port words. -/

/-- The three byte lanes of a port word put together again (R56, R71). -/
theorem portLanes_word (w : PortWord) :
    ((byteLane (w.setWidth 32) 2 ++ byteLane (w.setWidth 32) 1 ++ byteLane (w.setWidth 32) 0 : BitVec 24).setWidth 23) =
      w := by
  apply BitVec.eq_of_getLsbD_eq; intro i hi
  simp only [byteLane, BitVec.getLsbD_setWidth, BitVec.getLsbD_append, BitVec.getLsbD_extractLsb']
  obtain h | ⟨h, h'⟩ | h : i < 8 ∨ 8 ≤ i ∧ i < 16 ∨ 16 ≤ i := by omega
  · simp [h, hi, show i < 32 by omega]
  · simp [show ¬ i < 8 by omega, show i - 8 < 8 by omega, show 8 + (i - 8) = i by omega, hi, show i < 32 by omega]
  · simp [show ¬ i < 8 by omega, show ¬ i - 8 < 8 by omega, show 16 + (i - 8 - 8) = i by omega, hi, show i < 32 by omega]
    omega

/-- Bit 23 of the lanes is not a bit of the word. -/
theorem portLanes_msb (w : PortWord) : (byteLane (w.setWidth 32) 2).msb = false := by
  simp [byteLane, BitVec.msb_eq_getLsbD_last]

theorem decode_port23_lanes (w : PortWord) :
    decode .port23 [byteLane (w.setWidth 32) 0, byteLane (w.setWidth 32) 1, byteLane (w.setWidth 32) 2] =
      .ok (decodePort w) := by
  rw [decode, portLanes_msb, portLanes_word]
  rfl

theorem decode_encode_port {a : BitVec 3} {t : BitVec 2} {n : BitVec 4} {m : BitVec 14} {i : Instr}
    (hf : i.format = .port23) (hw : encodeWord i = (packPort a t n m).setWidth 32)
    (hd : decodePort (packPort a t n m) = i) : decode i.format (encode i) = .ok i := by
  simp only [encode, hf, hw, decode_port23_lanes, hd]

theorem decode_encode_command {i : Instr} (hw : i.wf = true) (hf : i.format = .cmd32) :
    decode i.format (encode i) = .ok i := by
  simp only [encode, hf, decode_cmd32_lanes, decodeCmd_encodeWord hw hf]

/-- Settles O1: a command word and a port word are each decoded whole from their lanes, and every mode of a port word is its
own row. -/
theorem decodeOfEncode : Obligations.DecodeOfEncode := by
  unfold Obligations.DecodeOfEncode
  intro i hw
  cases i with
  | portNormal | portClkEnable | portPall | portAutorefresh | portLoadMode | portSelfRefresh | portPowerDown | portRsvd =>
    exact decode_encode_port rfl rfl (decodePort_packPort _ _ _ _)
  | _ => exact decode_encode_command hw rfl

/-- Settles O2: the words are closed, and decoding evaluates on each. -/
theorem writtenOutWordsDecode : Obligations.WrittenOutWordsDecode := by
  unfold Obligations.WrittenOutWordsDecode
  decide

/-- Only `OP = 6` reads `WIDTH` (R65, R67). -/
theorem decodeCmd_congr_of_op_ne_six {v w : Word} (ho : cmdOp v = cmdOp w) (h6 : (cmdOp w).toNat ≠ 6) :
    decodeCmd v = decodeCmd w := by
  simp only [decodeCmd, ho]
  split
  case h_7 h => exact absurd h h6
  all_goals rfl

/-- Settles O3: `decodeCmd` reads two fields of the word, and the second for `OP = 6` only. -/
theorem ignoredCommandBits : Obligations.IgnoredCommandBits := by
  unfold Obligations.IgnoredCommandBits
  intro v w ho hw
  by_cases h6 : cmdOp w = 6
  · exact Machine.decodeCmd_congr ho (hw h6)
  · exact decodeCmd_congr_of_op_ne_six ho fun h => h6 (BitVec.eq_of_toNat_eq h)

end Sys2Proof

/-! What a step leaves inside the block. The host's part of an edge and the controller's part write nothing inside the block but
an accepted command's fields, so after a clock edge the block's own state is that of the block's part alone
(`blockNext s.fsm s.dropCtlOut`), or that of the accepted command (`commandBody`). `step_inside_cases` says this once; the
invariants, the transitions and the writers of a register below all start from it. -/

namespace Sys2Proof.Machine

open Sys2Proof

variable {b s t u : State}

/-- `t` holds what `b` holds in every register of the block that only the block writes: all but the staged registers,
`REJECTED`, `RESVAL`, and what is not the block's (`CTLREG`, the inputs, the port events, the count of free words). -/
structure State.SameInside (b t : State) : Prop where
  params : t.params = b.params
  attached : t.attached = b.attached
  result : t.result = b.result
  cfga0 : t.cfga0 = b.cfga0
  cfga1 : t.cfga1 = b.cfga1
  fsm : t.fsm = b.fsm
  cphase : t.cphase = b.cphase
  dcnt : t.dcnt = b.dcnt
  lCfg0 : t.lCfg0 = b.lCfg0
  lCfg1 : t.lCfg1 = b.lCfg1
  lMr : t.lMr = b.lMr
  lScmd : t.lScmd = b.lScmd
  lTgt : t.lTgt = b.lTgt
  mrcas : t.mrcas = b.mrcas
  ctlOut : t.ctlOut = b.ctlOut

/-- The other registers are those of `State.outside`, and the port events. -/
theorem sameInside_iff_eq_outside : b.SameInside t ↔ t = { b.outside t with trace := t.trace } := by
  constructor
  · intro h
    obtain ⟨h1, h2, h3, h4, h5, h6, h7, h8, h9, h10, h11, h12, h13, h14, h15⟩ := h
    cases t
    simp_all [State.outside]
  · intro h
    rw [h]
    constructor <;> rfl

theorem State.SameInside.trans (h : b.SameInside s) (h' : s.SameInside t) : b.SameInside t where
  params := h'.params.trans h.params
  attached := h'.attached.trans h.attached
  result := h'.result.trans h.result
  cfga0 := h'.cfga0.trans h.cfga0
  cfga1 := h'.cfga1.trans h.cfga1
  fsm := h'.fsm.trans h.fsm
  cphase := h'.cphase.trans h.cphase
  dcnt := h'.dcnt.trans h.dcnt
  lCfg0 := h'.lCfg0.trans h.lCfg0
  lCfg1 := h'.lCfg1.trans h.lCfg1
  lMr := h'.lMr.trans h.lMr
  lScmd := h'.lScmd.trans h.lScmd
  lTgt := h'.lTgt.trans h.lTgt
  mrcas := h'.mrcas.trans h.mrcas
  ctlOut := h'.ctlOut.trans h.ctlOut

/-- The block's part of an edge depends on what is inside the block, on the pins, and in two states on `CTLREG`. -/
theorem State.SameInside.blockNext (f : Fsm) (h : s.SameInside u) (hin : u.inputs = s.inputs)
    (hc : f = .iRdcas ∨ f = .iRecon → u.ctlreg = s.ctlreg) :
    (Machine.blockNext f s).SameInside (Machine.blockNext f u) := by
  have hp : u.pins.sameForBlock s.pins := by rw [pins_congr hin]; exact ⟨rfl, rfl, rfl, rfl, rfl⟩
  obtain ⟨es, -, hu⟩ := blockNext_outside f s u u.trace hp hc
  rw [← sameInside_iff_eq_outside.mp h] at hu
  rw [hu]
  constructor <;> rfl

/-- While the block is busy the host's part of an edge changes nothing inside it. -/
theorem hostPhase_busy_inside (hb : s.fsm ≠ .idle) (h : s.hostPhase = .next u) : s.SameInside u := by
  rw [hostPhase_busy hb h]
  constructor <;> rfl

/-- The controller's part and the end of the cycle change nothing inside the block. -/
theorem ctlEdge_advance_inside (s : State) (out other : Option Word) : s.SameInside (s.ctlEdge out other).advance := by
  rw [ctlEdge_frame]
  constructor <;> rfl

/-- What a step leaves inside the block: the reset values; the block's part alone; or an accepted command. -/
theorem step_inside_cases (h : step s = .next t) :
    (∃ o rest, s.inputs = .reset o :: rest ∧ t = s.resetEdge o) ∨
    ((∀ o rest, s.inputs ≠ .reset o :: rest) ∧ (s.fsm = .idle → ∀ v, s.pins.host ≠ some (.write .word 0 v)) ∧
      (blockNext s.fsm s.dropCtlOut).SameInside t) ∨
    (s.fsm = .idle ∧ ∃ v, s.pins.host = some (.write .word 0 v) ∧
      (commandBody (decodeCmd v) s.dropCtlOut).SameInside t) := by
  rcases step_cases h with hr | ⟨hn, u, hu, rfl⟩
  · exact .inl hr
  have hrest := ctlEdge_advance_inside (blockNext s.fsm u) s.ctlOut s.pins.ctlOther
  by_cases hb : s.fsm = .idle
  · have hid : blockNext s.fsm u = u := by rw [hb]; rfl
    by_cases hw : ∃ v, s.pins.host = some (.write .word 0 v)
    · obtain ⟨v, hv⟩ := hw
      refine .inr (.inr ⟨hb, v, hv, ?_⟩)
      have hx : exec (decodeCmd v) s.dropCtlOut = .next u := by
        simpa [State.hostPhase, hv] using hu
      rw [hid] at hrest ⊢
      rwa [hostPhase_idle_command (s := s.dropCtlOut) hb v hx] at hrest ⊢
    · refine .inr (.inl ⟨hn, fun _ v hv => hw ⟨v, hv⟩, ?_⟩)
      rcases hostPhase_idle (s := s.dropCtlOut) hb hu with hu | ⟨v, hv, -⟩
      · rw [hid] at hrest ⊢
        refine .trans ?_ hrest
        rw [hu, hb]
        constructor <;> rfl
      · exact absurd ⟨v, hv⟩ hw
  · have hin := hostPhase_busy_inside (s := s.dropCtlOut) hb hu
    obtain ⟨_, _, _, _, _, _, hreg, hinp, _⟩ := hostPhase_frame hu
    exact .inr (.inl ⟨hn, fun hf => absurd hf hb, (hin.blockNext s.fsm hinp fun _ => hreg).trans hrest⟩)

theorem inputs_ne_reset_of_clock {p : Pins} {rest : List Edge} (hi : s.inputs = .clock p :: rest) :
    ∀ o r, s.inputs ≠ .reset o :: r := by
  rw [hi]
  exact fun _ _ => by simp

/-- At a clock edge of a busy block: the block's part alone, whatever the host does. -/
theorem step_busy_inside (hb : s.fsm ≠ .idle) (hn : ∀ o rest, s.inputs ≠ .reset o :: rest) (h : step s = .next t) :
    (blockNext s.fsm s.dropCtlOut).SameInside t := by
  rcases step_inside_cases h with ⟨o, rest, hi, -⟩ | ⟨-, -, ht⟩ | ⟨hf, -⟩
  · exact absurd hi (hn o rest)
  · exact ht
  · exact absurd hf hb

theorem step_clock_inside {f : Fsm} {p : Pins} {rest : List Edge} (hf : s.fsm = f) (hb : f ≠ .idle)
    (hi : s.inputs = .clock p :: rest) (h : step s = .next t) : (blockNext f s.dropCtlOut).SameInside t := by
  subst hf
  exact step_busy_inside hb (inputs_ne_reset_of_clock hi) h

end Sys2Proof.Machine

/-! What the block's part of an edge can do, case by case, as a relation with named cases. `blockNext_cases` leaves the answer of
the controller to `State.cmdResponse` and `State.rtrResponse`; `BlockStep` goes on to what the answer leads to. -/

namespace Sys2Proof.Machine

open Sys2Proof

variable {s : State}

/-- The command states of INIT and where each goes on `Ok` (R87, R89, R90, R92). -/
def initSuccessors : List (Fsm × Fsm) := [(.iCke, .iDly), (.iPall, .iAref), (.iAref, .iRdcas), (.iLmr, .iRecon)]

/-! The two branches of step 6 (R93). -/

theorem stepRecon_of_eq (h : casField s.params.casLsb s.ctlreg = casMrToCtl s.mrcas) :
    s.stepRecon = (s.record (.ctlRead s.ctlreg)).enter .iRtr := by
  rw [State.stepRecon, if_pos h]

theorem stepRecon_of_ne (h : casField s.params.casLsb s.ctlreg ≠ casMrToCtl s.mrcas) :
    s.stepRecon = { s with
      fsm := .iRtr, cphase := .enter, result := { s.result with patched := true }
      ctlOut := some (patchCas s.params.casLsb (casMrToCtl s.mrcas) s.ctlreg)
      trace := .ctlWrite (patchCas s.params.casLsb (casMrToCtl s.mrcas) s.ctlreg) :: .ctlRead s.ctlreg :: s.trace } := by
  rw [State.stepRecon, if_neg h]
  rfl

/-- The block's part of an edge from `s`. -/
inductive BlockStep (s : State) : State → Prop where
  /-- Idle, or waiting for a tick or an answer. -/
  | stays : BlockStep s s
  /-- The `ENTER` cycle of a transaction (R53). -/
  | enters (hf : s.fsm.onCmdPort = true ∨ s.fsm = .iRtr) (hp : s.cphase = .enter) : BlockStep s { s with cphase := .wait }
  /-- A command of INIT is answered `Ok`. -/
  | initAdvances (w : PortWord) (f : Fsm) (ph : Phase) (d : Nat) (hp : s.cphase = .wait) (h7 : portMode w ≠ 7)
      (hf : (s.fsm, f) ∈ initSuccessors) (hph : f = .iAref → ph = .enter) (hd : d = 0 ∨ d = s.dcnt) :
      BlockStep s { s with fsm := f, cphase := ph, dcnt := d, trace := .cmd w true :: s.trace }
  /-- A command of INIT is answered `Fail` (R95). -/
  | initFails (w : PortWord) (n : BitVec 3) (hp : s.cphase = .wait) (h7 : portMode w ≠ 7) (hc : s.fsm.onCmdPort = true)
      (hf : s.fsm.inInit = true) (hn : n = 1 ∨ n = 3 ∨ n = 4 ∨ n = 5) : BlockStep s ((s.record (.cmd w false)).initFail n)
  /-- DEINIT's command is answered (R105). -/
  | deinitEnds (w : PortWord) (ok : Bool) (hp : s.cphase = .wait) (h7 : portMode w ≠ 7) (hf : s.fsm = .dPd) :
      BlockStep s ((s.record (.cmd w ok)).detach.finish .ok .none)
  /-- SETMR's command is answered `Ok` (R107). -/
  | setmrSucceeds (w : PortWord) (hp : s.cphase = .wait) (h7 : portMode w ≠ 7) (hf : s.fsm = .mLmr)
      (hk : s.pins.cmdOk = true) :
      BlockStep s (({ s with cfga0 := setmrCfga0 s.cfga0 s.lMr } : State).record (.cmd w true) |>.finish .ok .none)
  /-- SETMR's command is answered `Fail`, or SENDCMD's in either way (R107, R108). -/
  | commandEnds (w : PortWord) (ok : Bool) (c : StatusCode) (hp : s.cphase = .wait) (h7 : portMode w ≠ 7)
      (hf : s.fsm = .mLmr ∨ s.fsm = .sCmd) (hc : c = .ok ∨ c = .error) :
      BlockStep s ((s.record (.cmd w ok)).finish c .none)
  /-- The reserved mode held in `S_CMD`, which no run reaches (log entry 16). -/
  | refuses (hf : s.fsm = .sCmd) (h7 : portMode s.lScmd = 7) : BlockStep s s.refuseReservedMode
  /-- The last tick of the delay (R88). -/
  | delayEnds (hf : s.fsm = .iDly) : BlockStep s (s.enter .iPall)
  /-- A tick of the delay before the last one (R88). -/
  | delayTicks (hf : s.fsm = .iDly) (hd : s.dcnt ≠ s.params.powerupDelayTicks) : BlockStep s { s with dcnt := s.dcnt + 1 }
  /-- Step 5a (R91). -/
  | readsCas (hf : s.fsm = .iRdcas) : BlockStep s s.stepRdcas
  /-- Step 6 where the controller's CAS agrees (R93). -/
  | casAgrees (hf : s.fsm = .iRecon) : BlockStep s ((s.record (.ctlRead s.ctlreg)).enter .iRtr)
  /-- Step 6 where it is patched (R93). -/
  | casPatched (hf : s.fsm = .iRecon) (v : Word) :
      BlockStep s { s with
        fsm := .iRtr, cphase := .enter, result := { s.result with patched := true }, ctlOut := some v
        trace := .ctlWrite v :: .ctlRead s.ctlreg :: s.trace }
  /-- The refresh-timer write is answered `Ok` (R94). -/
  | initSucceeds (hf : s.fsm = .iRtr) (hp : s.cphase = .wait) (hd : s.pins.rtrDone = true) (hk : s.pins.rtrOk = true) :
      BlockStep s { s with
        cfga0 := initCfga0 s.lCfg0 s.mrcas, cfga1 := s.lCfg1, attached := true
        result := { s.result with code := .ok, reason := .none }, fsm := .idle, trace := .rtr s.lCfg1 true :: s.trace }
  /-- The refresh-timer write is answered `Fail` (R95). -/
  | refreshFails (hf : s.fsm = .iRtr) (hp : s.cphase = .wait) : BlockStep s ((s.record (.rtr s.lCfg1 false)).initFail 7)

theorem cmdResponse_sCmd (h : s.fsm = .sCmd) (ok : Bool) :
    s.cmdResponse ok = s.finish (if ok then .ok else .error) .none := by
  simp only [State.cmdResponse, h]
  cases ok <;> rfl

/-- The answer to a command, state by state. -/
theorem blockStep_of_answer {w : PortWord} {ok : Bool} (hc : s.fsm.onCmdPort = true) (hp : s.cphase = .wait)
    (h7 : portMode w ≠ 7) (hk : s.pins.cmdOk = ok) : BlockStep s ((s.record (.cmd w ok)).cmdResponse ok) := by
  cases hf : s.fsm with
  | iCke =>
    rw [cmdResponse_iCke (s := s.record _) hf]
    cases ok
    · exact .initFails w 1 hp h7 hc (by rw [hf]; rfl) (by decide)
    · exact .initAdvances w .iDly s.cphase 0 hp h7 (by rw [hf]; decide) (by simp) (.inl rfl)
  | iPall =>
    rw [cmdResponse_iPall (s := s.record _) hf]
    cases ok
    · exact .initFails w 3 hp h7 hc (by rw [hf]; rfl) (by decide)
    · exact .initAdvances w .iAref .enter s.dcnt hp h7 (by rw [hf]; decide) (by simp) (.inr rfl)
  | iAref =>
    rw [cmdResponse_iAref (s := s.record _) hf]
    cases ok
    · exact .initFails w 4 hp h7 hc (by rw [hf]; rfl) (by decide)
    · exact .initAdvances w .iRdcas s.cphase s.dcnt hp h7 (by rw [hf]; decide) (by simp) (.inr rfl)
  | iLmr =>
    rw [cmdResponse_iLmr (s := s.record _) hf]
    cases ok
    · exact .initFails w 5 hp h7 hc (by rw [hf]; rfl) (by decide)
    · exact .initAdvances w .iRecon s.cphase s.dcnt hp h7 (by rw [hf]; decide) (by simp) (.inr rfl)
  | dPd =>
    rw [cmdResponse_dPd (s := s.record _) hf]
    exact .deinitEnds w ok hp h7 hf
  | mLmr =>
    rw [cmdResponse_mLmr (s := s.record _) hf]
    cases ok
    · exact .commandEnds w false .error hp h7 (.inl hf) (.inr rfl)
    · exact .setmrSucceeds w hp h7 hf hk
  | sCmd =>
    rw [cmdResponse_sCmd (s := s.record _) hf]
    exact .commandEnds w ok _ hp h7 (.inr hf) (by cases ok <;> simp)
  | idle | iDly | iRdcas | iRecon | iRtr => rw [hf] at hc; cases hc

theorem blockStep_stepRecon (hf : s.fsm = .iRecon) : BlockStep s s.stepRecon := by
  by_cases h : casField s.params.casLsb s.ctlreg = casMrToCtl s.mrcas
  · exact stepRecon_of_eq h ▸ .casAgrees hf
  · exact stepRecon_of_ne h ▸ .casPatched hf _

theorem blockStep_of_refreshAnswer {ok : Bool} (hf : s.fsm = .iRtr) (hp : s.cphase = .wait) (hd : s.pins.rtrDone = true)
    (hk : s.pins.rtrOk = ok) : BlockStep s ((s.record (.rtr s.lCfg1 ok)).rtrResponse ok) := by
  cases ok with
  | true => exact .initSucceeds hf hp hd hk
  | false => exact .refreshFails hf hp

theorem blockNext_blockStep (s : State) : BlockStep s (blockNext s.fsm s) := by
  obtain ⟨-, e⟩ | ⟨hf, hp, e⟩ | ⟨-, e⟩ | ⟨w, hf, hp, -, h7, e⟩ | ⟨hf, h7, e⟩ | ⟨hf, -, -, e⟩ | ⟨hf, -, hd, e⟩ | ⟨hf, e⟩ |
    ⟨hf, e⟩ | ⟨hf, hp, e⟩ | ⟨hf, hp, hd, e⟩ := blockNext_cases s <;> rw [e]
  · exact .stays
  · exact .enters (.inl hf) hp
  · exact .stays
  · exact blockStep_of_answer hf hp h7 rfl
  · exact .refuses hf h7
  · exact .delayEnds hf
  · exact .delayTicks hf hd
  · exact .readsCas hf
  · exact blockStep_stepRecon hf
  · exact .enters (.inr hf) hp
  · exact blockStep_of_refreshAnswer hf hp hd rfl

/-- The block's part of an edge in the state it was in, after the host's part; while idle that is none, also where the host's
part has just started an operation. -/
theorem hostPhase_blockStep {u : State} (hu : s.hostPhase = .next u) : BlockStep u (blockNext s.fsm u) := by
  by_cases hf : s.fsm = .idle
  · rw [hf]
    exact .stays
  · rw [← (hostPhase_busy_inside hf hu).fsm]
    exact blockNext_blockStep u

/-- `step_inside_cases`, with the block's part as a case of `BlockStep`. -/
theorem step_blockStep_cases {s t : State} (h : step s = .next t) :
    (∃ o rest, s.inputs = .reset o :: rest ∧ t = s.resetEdge o) ∨
    (∃ b, BlockStep s.dropCtlOut b ∧ b.SameInside t) ∨
    (s.fsm = .idle ∧ ∃ i, (commandBody i s.dropCtlOut).SameInside t) := by
  obtain hr | ⟨-, -, ht⟩ | ⟨hf, v, -, ht⟩ := step_inside_cases h
  · exact .inl hr
  · exact .inr (.inl ⟨_, blockNext_blockStep s.dropCtlOut, ht⟩)
  · exact .inr (.inr ⟨hf, _, ht⟩)

end Sys2Proof.Machine

/-! The control invariant (R43), with O51. A state is idle, in INIT, or in one of the three command states, and for each
of the three kinds `controlInv_of_idle`, `controlInv_of_inInit` and `controlInv_of_command` say which part of the invariant is
left to show. What an edge leaves inside the block (`step_inside_cases`) falls under one of them, transition by transition. -/

namespace Sys2Proof.Machine

open Sys2Proof

variable {b s t : State}

/-! The three kinds of state. -/

theorem controlInv_of_idle (hf : s.fsm = .idle) (hc : s.result.code ≠ .busy)
    (ha : s.attached = false → s.cfga0 = 0 ∧ s.cfga1 = 0) (hd : s.dcnt ≤ s.params.powerupDelayTicks)
    (ho : s.ctlOut = none) : ControlInv s := by
  constructor <;> simp_all [Fsm.inInit]

/-- In INIT; the hypotheses are the delay count, the write output and the built mode register of the state entered. -/
theorem controlInv_of_inInit (hf : s.fsm.inInit = true) (hc : s.result.code = .busy) (ha : s.attached = false)
    (hd : s.dcnt ≤ s.params.powerupDelayTicks) (ho : s.ctlOut.isSome = true → s.fsm = .iRtr ∧ s.cphase = .enter)
    (hm : s.fsm = .iLmr ∨ s.fsm = .iRecon ∨ s.fsm = .iRtr →
      (s.mrcas = 0b010 ∨ s.mrcas = 0b011) ∧ s.lMr = mrBuild s.lCfg0 s.mrcas) : ControlInv s where
  detached_in_init _ := ha
  attached_in_command h := by rcases h with h | h | h <;> rw [h] at hf <;> cases hf
  config_cleared _ h := by rw [h] at hf; cases hf
  busy_code _ := hc
  idle_code h := by rw [h] at hf; cases hf
  dcnt_le := hd
  sendable h := by rw [h] at hf; cases hf
  ctl_write := ho
  mode_register := hm

theorem controlInv_of_command (hf : s.fsm = .dPd ∨ s.fsm = .mLmr ∨ s.fsm = .sCmd) (hc : s.result.code = .busy)
    (ha : s.attached = true) (hd : s.dcnt ≤ s.params.powerupDelayTicks) (ho : s.ctlOut = none)
    (h7 : s.fsm = .sCmd → portMode s.lScmd ≠ 7) : ControlInv s := by
  rcases hf with hf | hf | hf <;> constructor <;> simp_all [Fsm.inInit]

/-- The invariant speaks of what is inside the block only. -/
theorem ControlInv.of_sameInside (h : ControlInv b) (hs : b.SameInside t) : ControlInv t := by
  obtain ⟨h1, h2, h3, h4, h5, h6, h7, h8, h9, h10, h11, h12, h13, h14, h15⟩ := hs
  obtain ⟨i1, i2, i3, i4, i5, i6, i7, i8, i9⟩ := h
  constructor <;> simp only [h1, h2, h3, h4, h5, h6, h7, h8, h9, h11, h12, h14, h15] <;> assumption

theorem ControlInv.dropCtlOut (h : ControlInv s) : ControlInv s.dropCtlOut :=
  { h with ctl_write := fun ho => by cases ho }

/-! Reset and an accepted command. -/

theorem controlInv_resetEdge (s : State) (o : Option Word) : ControlInv (s.resetEdge o) := by
  obtain ⟨k, d, h⟩ := resetEdge_parts s o
  rw [h]
  exact controlInv_of_idle rfl (show StatusCode.ok ≠ .busy by decide) (fun _ => ⟨rfl, rfl⟩) (Nat.zero_le _) rfl

/-- `SCMD[22:0]` as a port word has the mode that SENDCMD tests (R32, R108). -/
theorem portMode_scmd (v : Word) : portMode (v.extractLsb' 0 23) = scmdMode v := by
  apply BitVec.eq_of_getLsbD_eq; intro i hi
  simp [portMode, scmdMode, hi]

/-- A command that ends at once has a final code; one that starts a sequence enters `I_CKE`, or a command state while
attached. -/
theorem ControlInv.commandBody (h : ControlInv s) (hf : s.fsm = .idle) (ho : s.ctlOut = none) (i : Instr) :
    ControlInv (commandBody i s) := by
  obtain e | ⟨r, v, e, hc, -⟩ | ⟨-, e⟩ | ⟨-, ha, e⟩ | ⟨-, ha, e⟩ | ⟨-, ha, h7, e⟩ := commandBody_cases i hf <;> rw [e]
  · exact h
  · exact controlInv_of_idle hf hc (fun ha => h.config_cleared ha hf) h.dcnt_le ho
  · exact controlInv_of_inInit rfl rfl rfl h.dcnt_le (by simp [ho]) (by simp)
  · exact controlInv_of_command (.inl rfl) rfl ha h.dcnt_le ho (by simp)
  · exact controlInv_of_command (.inr (.inl rfl)) rfl ha h.dcnt_le ho (by simp)
  · exact controlInv_of_command (.inr (.inr rfl)) rfl ha h.dcnt_le ho fun _ => by rwa [portMode_scmd]

/-! The block's part of an edge. -/

/-- In an INIT state the invariant says that the block is detached and that the operation runs. -/
theorem ControlInv.running_init (h : ControlInv s) (hi : s.fsm.inInit = true) :
    s.attached = false ∧ s.result.code = .busy :=
  ⟨h.detached_in_init hi, h.busy_code fun hf => by rw [hf] at hi; cases hi⟩

theorem casCtlToMr_cases (c : BitVec 2) : casCtlToMr c = 0b010 ∨ casCtlToMr c = 0b011 := by
  unfold casCtlToMr
  split
  · exact .inl rfl
  · exact .inr rfl

/-- An answer `Ok` to a command of INIT leads to a later state of INIT, and to one past `I_LMR` from `I_LMR` only. -/
theorem inInit_of_mem_initSuccessors {f g : Fsm} (h : (f, g) ∈ initSuccessors) :
    f.inInit = true ∧ g.inInit = true ∧ (g = .iLmr ∨ g = .iRecon ∨ g = .iRtr → f = .iLmr) := by
  revert h
  cases f <;> cases g <;> decide

/-- The block's part of an edge keeps the invariant. -/
theorem ControlInv.blockStep (h : ControlInv s) (ho : s.ctlOut = none) (hb : BlockStep s b) : ControlInv b := by
  cases hb with
  | stays => exact h
  | enters => exact { h with ctl_write := fun hw => by simp [ho] at hw }
  | initAdvances w f ph d _ _ hf _ hd =>
    obtain ⟨hs, hi, hm⟩ := inInit_of_mem_initSuccessors hf
    obtain ⟨ha, hc⟩ := h.running_init hs
    have hle : d ≤ s.params.powerupDelayTicks := by have := h.dcnt_le; omega
    exact controlInv_of_inInit hi hc ha hle (by simp [ho]) fun hg => h.mode_register (.inl (hm hg))
  | initFails | refreshFails => exact controlInv_of_idle rfl (by simp) (fun _ => ⟨rfl, rfl⟩) h.dcnt_le ho
  | deinitEnds => exact controlInv_of_idle rfl (by simp) (fun _ => ⟨rfl, rfl⟩) h.dcnt_le ho
  | setmrSucceeds w _ _ hf =>
    have ha := h.attached_in_command (.inr (.inl hf))
    exact controlInv_of_idle rfl (by simp) (by simp [ha]) h.dcnt_le ho
  | commandEnds w ok c _ _ hf hc =>
    have ha := h.attached_in_command (.inr hf)
    exact controlInv_of_idle rfl (by rcases hc with rfl | rfl <;> simp) (by simp [ha]) h.dcnt_le ho
  | refuses hf h7 => exact absurd h7 (h.sendable hf)
  | delayEnds hf =>
    obtain ⟨ha, hc⟩ := h.running_init (by rw [hf]; rfl)
    exact controlInv_of_inInit rfl hc ha h.dcnt_le (by simp [ho]) (by simp)
  | delayTicks hf hd =>
    obtain ⟨ha, hc⟩ := h.running_init (by rw [hf]; rfl)
    have hle := h.dcnt_le
    exact controlInv_of_inInit (by rw [hf]; rfl) hc ha (by simp only; omega) (by simp [ho]) (by simp [hf])
  | readsCas hf =>
    obtain ⟨ha, hc⟩ := h.running_init (by rw [hf]; rfl)
    exact controlInv_of_inInit rfl hc ha h.dcnt_le (by simp [State.stepRdcas, ho]) fun _ => ⟨casCtlToMr_cases _, rfl⟩
  | casAgrees hf =>
    obtain ⟨ha, hc⟩ := h.running_init (by rw [hf]; rfl)
    exact controlInv_of_inInit rfl hc ha h.dcnt_le (by simp [ho]) fun _ => h.mode_register (.inr (.inl hf))
  | casPatched hf =>
    obtain ⟨ha, hc⟩ := h.running_init (by rw [hf]; rfl)
    exact controlInv_of_inInit rfl hc ha h.dcnt_le (fun _ => ⟨rfl, rfl⟩) fun _ => h.mode_register (.inr (.inl hf))
  | initSucceeds => exact controlInv_of_idle rfl (by simp) (by simp) h.dcnt_le ho

/-- Settles O51: what a step leaves inside the block has the invariant, and the invariant reads nothing else. -/
theorem controlInvariantKept : Obligations.ControlInvariantKept := by
  unfold Obligations.ControlInvariantKept
  intro s t h hst
  obtain ⟨o, rest, -, rfl⟩ | ⟨b, hb, ht⟩ | ⟨hf, i, ht⟩ := step_blockStep_cases hst
  · exact controlInv_resetEdge s o
  · exact (h.dropCtlOut.blockStep rfl hb).of_sameInside ht
  · exact (h.dropCtlOut.commandBody hf rfl i).of_sameInside ht

end Sys2Proof.Machine

/-! The fields of `RESULT` (R27, R122 to R124) with O52, the reserved bits of the stored registers (R29 to R34) with O53, and the
three invariants at reset with O50. -/

namespace Sys2Proof.Machine

open Sys2Proof

variable {b s t u : State}

/-! `RESULT`. -/

/-- The invariant speaks of what is inside the block only. -/
theorem ResultInv.of_sameInside (h : ResultInv b) (hs : b.SameInside t) : ResultInv t := by
  obtain ⟨i1, i2, i3, i4, i5, i6⟩ := h
  constructor <;> simp only [hs.result, hs.fsm] <;> assumption

/-- An edge that leaves `RESULT` alone, and the operation running. -/
theorem ResultInv.of_result_eq (h : ResultInv s) (hr : t.result = s.result)
    (hf : t.fsm = s.fsm ∨ t.fsm.inInit = true ∧ s.fsm.inInit = true) : ResultInv t where
  no_timeout := by rw [hr]; exact h.no_timeout
  reason_iff := by rw [hr]; exact h.reason_iff
  aligned_chkacc := by rw [hr]; exact h.aligned_chkacc
  step_init := by rw [hr]; exact h.step_init
  patched_init := by rw [hr]; exact h.patched_init
  op_running := by
    rw [hr]
    rcases hf with hf | ⟨ht, hs⟩
    · rw [hf]; exact h.op_running
    · refine ⟨fun _ => h.op_running.1 hs, ?_, ?_, ?_⟩ <;> intro e <;> rw [e] at ht <;> cases ht

/-- The fields of `RESULT` where the block is idle, from a `RESULT` of which only the end of the operation is still to be
written: `ALIGNED` and `STEP` are 0 while an operation runs. -/
theorem resultInv_of_idle (hf : s.fsm = .idle) (ht : s.result.code ≠ .timeout)
    (hr : s.result.reason = .none ↔ s.result.code ≠ .invalidParameter)
    (ha : s.result.aligned = true → s.result.op = 6 ∧ s.result.code = .ok)
    (hst : s.result.step = 0 ∨ (s.result.op = 1 ∧ s.result.code = .error ∧
      (s.result.step = 1 ∨ s.result.step = 3 ∨ s.result.step = 4 ∨ s.result.step = 5 ∨ s.result.step = 7)))
    (hp : s.result.patched = true → s.result.op = 1) : ResultInv s :=
  ⟨ht, hr, ha, hst, hp, by simp [hf, Fsm.inInit]⟩

/-- While an operation runs no field of its end is written yet. -/
theorem ResultInv.running (h : ResultInv s) (hc : s.result.code = .busy) :
    s.result.aligned = false ∧ s.result.step = 0 := by
  constructor
  · by_contra ha
    have := (h.aligned_chkacc (by simpa using ha)).2
    rw [hc] at this
    cases this
  · rcases h.step_init with h0 | ⟨-, he, -⟩
    · exact h0
    · rw [hc] at he
      cases he

/-- A running operation that ends with `Ok` or `Error` and no reason. -/
theorem ResultInv.ends (h : ResultInv s) (hb : s.result.code = .busy) {c : StatusCode} (hc : c = .ok ∨ c = .error)
    (hf : t.fsm = .idle) (hr : t.result = { s.result with code := c, reason := .none }) : ResultInv t := by
  obtain ⟨ha, hst⟩ := h.running hb
  have hp := h.patched_init
  refine resultInv_of_idle hf ?_ ?_ ?_ ?_ ?_ <;> rw [hr]
  · rcases hc with rfl | rfl <;> simp
  · rcases hc with rfl | rfl <;> simp
  · simp [ha]
  · exact .inl hst
  · exact hp

/-- The failure exit of INIT: `STEP` names a step of INIT, which is the operation running. -/
theorem ResultInv.initFails (h : ResultInv s) (hi : s.fsm.inInit = true) (hb : s.result.code = .busy) {n : BitVec 3}
    (hn : n = 1 ∨ n = 3 ∨ n = 4 ∨ n = 5 ∨ n = 7) (hf : t.fsm = .idle)
    (hr : t.result = { s.result with code := .error, reason := .none, step := n }) : ResultInv t := by
  obtain ⟨ha, -⟩ := h.running hb
  have hp := h.patched_init
  refine resultInv_of_idle hf ?_ ?_ ?_ ?_ ?_ <;> rw [hr]
  · simp
  · simp
  · simp [ha]
  · exact .inr ⟨h.op_running.1 hi, rfl, hn⟩
  · exact hp

/-- The start of a sequence: the result as dispatch left it, with the code `Busy`. -/
theorem resultInv_of_start {op : BitVec 4} (hr : t.result = { resultOfOp op with code := .busy })
    (hf : (t.fsm.inInit = true → op = 1) ∧ (t.fsm = .dPd → op = 2) ∧ (t.fsm = .mLmr → op = 3) ∧ (t.fsm = .sCmd → op = 4)) :
    ResultInv t := by
  constructor <;> simp only [hr]
  case op_running => exact hf
  all_goals simp [resultOfOp]

theorem ResultInv.commandBody (h : ResultInv s) (hf : s.fsm = .idle) (i : Instr) : ResultInv (commandBody i s) := by
  obtain e | ⟨r, v, e, -, ht, hr, ha, hst, hp⟩ | ⟨-, e⟩ | ⟨-, -, e⟩ | ⟨-, -, e⟩ | ⟨-, -, -, e⟩ := commandBody_cases i hf <;>
    rw [e]
  · exact h
  · exact resultInv_of_idle hf ht hr ha (.inl hst) (by simp [hp])
  · exact resultInv_of_start (op := 1) rfl (by simp)
  · exact resultInv_of_start (op := 2) rfl (by simp [Fsm.inInit])
  · exact resultInv_of_start (op := 3) rfl (by simp [Fsm.inInit])
  · exact resultInv_of_start (op := 4) rfl (by simp [Fsm.inInit])

/-- The block's part of an edge keeps the invariant. -/
theorem ResultInv.blockStep (h : ResultInv s) (hs : ControlInv s) (hb : BlockStep s b) : ResultInv b := by
  have busy {f : Fsm} (hf : s.fsm = f) (hi : f ≠ .idle) : s.result.code = .busy := hs.busy_code (by rwa [hf])
  cases hb with
  | stays => exact h
  | enters => exact h.of_result_eq rfl (.inl rfl)
  | initAdvances w f ph d _ _ hf =>
    obtain ⟨hs, hi, -⟩ := inInit_of_mem_initSuccessors hf
    exact h.of_result_eq rfl (.inr ⟨hi, hs⟩)
  | initFails w n _ _ _ hf hn =>
    obtain ⟨-, hc⟩ := hs.running_init hf
    exact h.initFails hf hc (by tauto) rfl rfl
  | deinitEnds w ok _ _ hf => exact h.ends (busy hf (by simp)) (.inl rfl) rfl rfl
  | setmrSucceeds w _ _ hf => exact h.ends (busy hf (by simp)) (.inl rfl) rfl rfl
  | commandEnds w ok c _ _ hf hc => exact h.ends (hf.elim (busy · (by simp)) (busy · (by simp))) hc rfl rfl
  | refuses hf h7 => exact absurd h7 (hs.sendable hf)
  | delayEnds hf => exact h.of_result_eq rfl (.inr ⟨rfl, by rw [hf]; rfl⟩)
  | delayTicks => exact h.of_result_eq rfl (.inl rfl)
  | readsCas hf => exact h.of_result_eq rfl (.inr ⟨rfl, by rw [hf]; rfl⟩)
  | casAgrees hf => exact h.of_result_eq rfl (.inr ⟨rfl, by rw [hf]; rfl⟩)
  | casPatched hf =>
    have hop : s.result.op = 1 := h.op_running.1 (by rw [hf]; rfl)
    exact ⟨h.no_timeout, h.reason_iff, h.aligned_chkacc, h.step_init, fun _ => hop, by simp [hop]⟩
  | initSucceeds hf => exact h.ends (busy hf (by simp)) (.inl rfl) rfl rfl
  | refreshFails hf => exact h.initFails (n := 7) (by rw [hf]; rfl) (busy hf (by simp)) (by decide) rfl rfl

theorem resultInv_resetEdge (s : State) (o : Option Word) : ResultInv (s.resetEdge o) := by
  obtain ⟨k, d, h⟩ := resetEdge_parts s o
  rw [h]
  constructor <;> simp [State.reset, Fsm.inInit]

/-- Settles O52: what a step leaves inside the block has the invariant; the control invariant gives the code of the running
operation. -/
theorem resultInvariantKept : Obligations.ResultInvariantKept := by
  unfold Obligations.ResultInvariantKept
  intro s t hc h hst
  obtain ⟨o, rest, -, rfl⟩ | ⟨b, hb, ht⟩ | ⟨hf, i, ht⟩ := step_blockStep_cases hst
  · exact resultInv_resetEdge s o
  · have hd : ResultInv s.dropCtlOut := h.of_result_eq rfl (.inl rfl)
    exact (hd.blockStep hc.dropCtlOut hb).of_sameInside ht
  · have hd : ResultInv s.dropCtlOut := h.of_result_eq rfl (.inl rfl)
    exact (hd.commandBody hf i).of_sameInside ht

/-! The reserved bits. -/

/-- A word under a mask keeps under any wider one. -/
theorem and_and_mask {k m : Word} (h : k &&& m = k) (v : Word) : v &&& k &&& m = v &&& k := by
  rw [BitVec.and_assoc, h]

theorem casCode_and_mask (m : BitVec 3) : m.setWidth 32 <<< 4 &&& cfga0Mask = m.setWidth 32 <<< 4 := by
  revert m
  decide

/-- The fields INIT stores are fields of `CFGA0` (R34, R94). -/
theorem initCfga0_and_mask (c : BitVec 14) (m : BitVec 3) : initCfga0 c m &&& cfga0Mask = initCfga0 c m := by
  have hc : (c &&& 0x338F).setWidth 32 = c.setWidth 32 &&& (0x338F : Word) := by rw [BitVec.setWidth_and]; rfl
  rw [initCfga0, hc, BitVec.and_or_distrib_right, and_and_mask (by decide), casCode_and_mask]

/-- So are those SETMR stores, and it clears no other (R107). -/
theorem setmrCfga0_and_mask {a : Word} (h : a &&& cfga0Mask = a) (m : BitVec 14) :
    setmrCfga0 a m &&& cfga0Mask = setmrCfga0 a m := by
  have hm : (m &&& 0x27F).setWidth 32 = m.setWidth 32 &&& (0x27F : Word) := by rw [BitVec.setWidth_and]; rfl
  rw [setmrCfga0, hm, BitVec.and_or_distrib_right, and_and_mask (k := 0x27F) (by decide), BitVec.and_assoc,
    BitVec.and_comm (~~~0x27F), ← BitVec.and_assoc, h]

/-- The block's part of an edge writes `CFGA0` with a word of its fields, or with 0. -/
theorem blockStep_cfga0_reserved (h : s.cfga0 &&& cfga0Mask = s.cfga0) (hb : BlockStep s b) :
    b.cfga0 &&& cfga0Mask = b.cfga0 := by
  cases hb with
  | initFails | deinitEnds | refreshFails => exact BitVec.zero_and
  | setmrSucceeds => exact setmrCfga0_and_mask h _
  | initSucceeds => exact initCfga0_and_mask _ _
  | _ => exact h

/-- The host's part of an edge stores the masked registers under their masks. -/
theorem ReservedInv.hostPhase (h : ReservedInv s) (hu : s.hostPhase = .next u) : ReservedInv u := by
  rcases hostPhase_cases hu with ⟨_, rfl⟩ | ⟨off, _, _, rfl⟩ | ⟨off, v, _, _, _, rfl⟩ | ⟨v, _, he⟩
  · exact h
  · rw [hostRead_frame]; exact ⟨h.1, h.2, h.3, h.4⟩
  · unfold State.hostWrite
    split
    case h_1 => split <;> exact ⟨h.1, h.2, h.3, h.4⟩
    case h_2 => exact { h with cfg0 := and_and_mask BitVec.and_self v }
    case h_4 => exact { h with mrraw := and_and_mask BitVec.and_self v }
    case h_5 => exact { h with scmd := and_and_mask BitVec.and_self v }
    all_goals exact ⟨h.1, h.2, h.3, h.4⟩
  · by_cases hb : s.fsm = .idle
    · rw [hostPhase_idle_command hb v he, commandBody_frame]; exact ⟨h.1, h.2, h.3, h.4⟩
    · rw [exec_command_busy _ (decodeCmd_format v) hb] at he
      injection he with he
      subst he
      exact ⟨h.1, h.2, h.3, h.4⟩

theorem reservedInv_resetEdge (s : State) (o : Option Word) : ReservedInv (s.resetEdge o) := by
  obtain ⟨k, d, h⟩ := resetEdge_parts s o
  rw [h]
  exact ⟨BitVec.zero_and, BitVec.zero_and, BitVec.zero_and, BitVec.zero_and⟩

/-- Settles O53: the host's part stores under the masks, and of the four registers the block's part writes `CFGA0` only. -/
theorem reservedBitsStayZero : Obligations.ReservedBitsStayZero := by
  unfold Obligations.ReservedBitsStayZero
  intro s t h hst
  rcases step_parts hst with ⟨o, rest, -, rfl⟩ | ⟨-, u, k, d, hu, rfl, -⟩
  · exact reservedInv_resetEdge s o
  · have hinv : ReservedInv u := ReservedInv.hostPhase (s := s.dropCtlOut) ⟨h.1, h.2, h.3, h.4⟩ hu
    have hcfga0 := blockStep_cfga0_reserved hinv.cfga0 (hostPhase_blockStep (s := s.dropCtlOut) hu)
    rw [blockNext_frame]
    exact ⟨hinv.1, hinv.2, hinv.3, hcfga0⟩

/-- Settles O50: `State.reset` is what a reset edge leaves when nothing of the surroundings is at hand. -/
theorem invariantsAtReset : Obligations.InvariantsAtReset :=
  ⟨controlInv_resetEdge State.reset none, resultInv_resetEdge State.reset none, reservedInv_resetEdge State.reset none⟩

end Sys2Proof.Machine

/-! `CTLREG` and the CAS subfield: the write of step 6 and its way into `CTLREG` (R50, R93) with O37 and O40, and the agreement of
the controller's CAS with the mode register's (R98) with O41. With no other writer the register after an edge is what was on
the block's port, or else as it was (`step_ctlreg`), and only `I_RECON` puts a write on the port. -/

namespace Sys2Proof.Machine

open Sys2Proof

variable {b s t : State}

/-! The patch. -/

theorem three_getLsbD (k : Nat) : (0b11 : Word).getLsbD k = decide (k < 2) := by
  obtain h | h : k < 32 ∨ 32 ≤ k := by omega
  · interval_cases k <;> rfl
  · rw [BitVec.getLsbD_of_ge _ _ h, decide_eq_false (by omega)]

/-- Outside the two bits of the subfield the mask keeps the word, and the value shifted in has no bit (R93). -/
theorem patchCas_getLsbD_of_ne {lsb k : Nat} (e : BitVec 2) (r : Word) (h0 : k ≠ lsb) (h1 : k ≠ lsb + 1) :
    (patchCas lsb e r).getLsbD k = r.getLsbD k := by
  have hmask : ((0b11 : Word) <<< lsb).getLsbD k = false := by
    rw [BitVec.getLsbD_shiftLeft, three_getLsbD]
    obtain h | h : k < lsb ∨ ¬ k - lsb < 2 := by omega
    all_goals simp [h]
  have hvalue : (e.setWidth 32 <<< lsb).getLsbD k = false := by
    rw [BitVec.getLsbD_shiftLeft]
    obtain h | h : k < lsb ∨ 2 ≤ k - lsb := by omega
    · simp [h]
    · simp [BitVec.getLsbD_of_ge e _ h]
  rw [patchCas, BitVec.getLsbD_or, BitVec.getLsbD_and, BitVec.getLsbD_not, hmask, hvalue]
  simpa using BitVec.lt_of_getLsbD

/-- Settles O40: the subfield by `casField_patchCas`, every other bit by `patchCas_getLsbD_of_ne`. -/
theorem patchChangesOnlySubfield : Obligations.PatchChangesOnlySubfield := by
  unfold Obligations.PatchChangesOnlySubfield
  exact fun p e r => ⟨casField_patchCas p.casLsb p.casLsb_le e r, fun k => patchCas_getLsbD_of_ne e r⟩

/-! `CTLREG` after an edge. -/

/-- With no other writer `CTLREG` takes what is on the block's port. -/
theorem step_ctlreg {p : Pins} {rest : List Edge} (hi : s.inputs = .clock p :: rest) (hp : p.ctlOther = none)
    (h : step s = .next t) : t.ctlreg = s.ctlOut.getD s.ctlreg := by
  obtain ⟨o, r, hr, -⟩ | ⟨-, u, k, d, -, rfl, hnone, hsome⟩ := step_parts h
  · exact absurd hr (inputs_ne_reset_of_clock hi o r)
  · rw [← pins_clock hi] at hp
    cases ho : s.ctlOut with
    | none => exact hnone ho hp
    | some v => exact hsome v ho hp

/-- Only `I_RECON` puts a write on the port (R93). -/
theorem blockStep_ctlOut (hb : BlockStep s b) (hf : s.fsm ≠ .iRecon) : b.ctlOut = s.ctlOut := by
  cases hb with
  | casPatched h => exact absurd h hf
  | _ => rfl

/-- What was on the port is there for one cycle (R50). -/
theorem step_ctlOut_none (hf : s.fsm ≠ .iRecon) (h : step s = .next t) : t.ctlOut = none := by
  obtain ⟨o, rest, -, rfl⟩ | ⟨b, hb, ht⟩ | ⟨-, i, ht⟩ := step_blockStep_cases h
  · obtain ⟨k, d, hr⟩ := resetEdge_parts s o
    rw [hr]
    rfl
  · rw [ht.ctlOut, blockStep_ctlOut hb hf]
    rfl
  · rw [ht.ctlOut, commandBody_frame]
    rfl

/-- Settles O37: `CTLREG` takes the value on the port, and nothing new is put there. -/
theorem patchReachesCtlreg : Obligations.PatchReachesCtlreg := by
  unfold Obligations.PatchReachesCtlreg
  intro s t p rest v hi hp ho hf h
  refine ⟨by rw [State.ctlWe, ho]; rfl, ho, ?ctlreg, ?we⟩
  case ctlreg => rw [step_ctlreg hi hp h, ho]; rfl
  case we => rw [State.ctlWe, step_ctlOut_none hf h]; rfl

/-! The agreement. -/

/-- Whether or not `I_RECON` patches, the subfield is then the one `mrcas` implies, with the write that is on the port. -/
theorem casField_stepRecon (ho : s.ctlOut = none) :
    casField s.params.casLsb (s.stepRecon.ctlOut.getD s.ctlreg) = casMrToCtl s.stepRecon.mrcas := by
  by_cases h : casField s.params.casLsb s.ctlreg = casMrToCtl s.mrcas
  · rw [stepRecon_of_eq h]
    simpa [ho] using h
  · rw [stepRecon_of_ne h]
    exact casField_patchCas _ s.params.casLsb_le _ _

/-- The edges of `I_RTR`: `ENTER`, waiting, and the answer (R53, R94). -/
theorem stepRtr_cases (s : State) :
    (s.cphase = .enter ∧ s.stepRtr = { s with cphase := .wait }) ∨
    (s.cphase = .wait ∧ s.pins.rtrDone = false ∧ s.stepRtr = s) ∨
    (s.cphase = .wait ∧ s.pins.rtrDone = true ∧
      s.stepRtr = (s.record (.rtr s.lCfg1 s.pins.rtrOk)).rtrResponse s.pins.rtrOk) := by
  cases hp : s.cphase with
  | enter => simp only [State.stepRtr, hp]; simp
  | wait => cases hd : s.pins.rtrDone <;> simp [State.stepRtr, hp, hd]

theorem stepRtr_latches (s : State) :
    s.stepRtr.mrcas = s.mrcas ∧ s.stepRtr.lMr = s.lMr ∧ s.stepRtr.params = s.params := by
  obtain ⟨-, e⟩ | ⟨-, -, e⟩ | ⟨-, -, e⟩ := stepRtr_cases s <;> rw [e]
  · exact ⟨rfl, rfl, rfl⟩
  · exact ⟨rfl, rfl, rfl⟩
  · rw [State.rtrResponse]
    split <;> exact ⟨rfl, rfl, rfl⟩

/-- `I_RTR` ends attached only with the configuration of a successful INIT (R94). -/
theorem stepRtr_cfga0_of_attached (hf : s.fsm = .iRtr) (h : s.stepRtr.fsm = .idle) (ha : s.stepRtr.attached = true) :
    s.stepRtr.cfga0 = initCfga0 s.lCfg0 s.mrcas := by
  obtain ⟨-, e⟩ | ⟨-, -, e⟩ | ⟨-, -, e⟩ := stepRtr_cases s <;> rw [e] at h ha ⊢
  · rw [show ({ s with cphase := .wait } : State).fsm = .iRtr from hf] at h; cases h
  · rw [hf] at h; cases h
  · rw [State.rtrResponse] at ha ⊢
    split at ha
    case isTrue hk => rw [if_pos hk]; rfl
    case isFalse => cases ha

/-- Settles O41: `I_RECON` makes the subfield agree, `I_RTR` moves it from the port into `CTLREG` and keeps it, and the
configuration INIT stores has the CAS code that the invariant finds in `L_MR`. -/
theorem casAgreementAfterInit : Obligations.CasAgreementAfterInit := by
  unfold Obligations.CasAgreementAfterInit
  intro s t p rest hc hi hp h
  have hreg := step_ctlreg hi hp h
  refine ⟨fun hf => ?recon, fun hf hs => ?rtr⟩
  case recon =>
    have ho : s.ctlOut = none := by
      by_contra ho
      have := (hc.ctl_write (Option.isSome_iff_ne_none.mpr ho)).1
      rw [hf] at this
      cases this
    have hin : s.dropCtlOut.stepRecon.SameInside t := step_clock_inside hf (by simp) hi h
    rw [hreg, ho, hin.mrcas, hin.ctlOut, (step_frame h).1]
    exact casField_stepRecon (s := s.dropCtlOut) rfl
  case rtr =>
    have hin : s.dropCtlOut.stepRtr.SameInside t := step_clock_inside hf (by simp) hi h
    have hout : t.ctlOut = none := step_ctlOut_none (by rw [hf]; simp) h
    obtain ⟨hm, hl, hpar⟩ := stepRtr_latches s.dropCtlOut
    have hagree : casField t.params.casLsb t.ctlreg = casMrToCtl t.mrcas := by
      rw [hreg, hin.params, hpar, hin.mrcas, hm]
      exact hs
    obtain ⟨-, hbuilt⟩ := hc.mode_register (.inr (.inr hf))
    have hmr : mrCasField t.lMr = t.mrcas := by
      rw [hin.lMr, hl, hin.mrcas, hm, dropCtlOut_lMr, hbuilt, mrCasField_mrBuild, dropCtlOut_mrcas]
    refine ⟨by rw [hout]; exact hagree, fun hidle ha => ?_⟩
    have hcfg : cfgCasField t.cfga0 = t.mrcas := by
      rw [hin.fsm] at hidle
      rw [hin.attached] at ha
      rw [hin.cfga0, stepRtr_cfga0_of_attached (s := s.dropCtlOut) hf hidle ha, cfgCasField_initCfga0, hin.mrcas, hm]
    exact ⟨hout, by rw [hcfg]; exact hagree, by rw [hcfg, hmr], hmr⟩

end Sys2Proof.Machine

/-! The record of port events: what each part of an edge may add to it, with O31 and O60. -/

namespace Sys2Proof.Machine

open Sys2Proof

variable {b s t u : State}

/-- The events an edge may add when the block is in state `f`: host reads in any state; commands of a mode the block may send
(R79); the refresh-timer request in `I_RTR` (R94); accesses to `CTLREG` in the two states that make them (R41, R91, R93). -/
def Fsm.MayRecord (f : Fsm) : PortEvent → Prop
  | .hostRead _ _ => True
  | .cmd w _ => portMode w ≠ 7
  | .rtr _ _ => f = .iRtr
  | .ctlRead _ => f = .iRdcas ∨ f = .iRecon
  | .ctlWrite _ => f = .iRecon

/-- `t` has the port events of `s` and perhaps further ones, such as an edge in the state of `s` may add. -/
def State.Records (s t : State) : Prop :=
  ∃ es, t.trace = es ++ s.trace ∧ ∀ e ∈ es, s.fsm.MayRecord e

theorem records_of_trace_eq (h : t.trace = s.trace) : s.Records t := ⟨[], h, by simp⟩

theorem records_of_trace_cons {e : PortEvent} (h : t.trace = e :: s.trace) (he : s.fsm.MayRecord e) : s.Records t :=
  ⟨[e], h, by simpa using he⟩

theorem blockStep_records (hb : BlockStep s b) : s.Records b := by
  cases hb with
  | stays | enters | refuses | delayEnds | delayTicks => exact records_of_trace_eq rfl
  | initAdvances w _ _ _ _ h7 | initFails w _ _ h7 | deinitEnds w _ _ h7 | setmrSucceeds w _ h7 | commandEnds w _ _ _ h7 =>
    exact records_of_trace_cons rfl h7
  | readsCas hf => exact records_of_trace_cons rfl (.inl hf)
  | casAgrees hf => exact records_of_trace_cons rfl (.inr hf)
  | casPatched hf v => exact ⟨[.ctlWrite v, .ctlRead s.ctlreg], rfl, by simp [Fsm.MayRecord, hf]⟩
  | initSucceeds hf | refreshFails hf => exact records_of_trace_cons rfl hf

/-- The host's part of an edge adds a read at most. -/
theorem hostPhase_records (h : s.hostPhase = .next u) :
    ∃ es, u.trace = es ++ s.trace ∧ ∀ f : Fsm, ∀ e ∈ es, f.MayRecord e := by
  have nothing (ht : u.trace = s.trace) : ∃ es, u.trace = es ++ s.trace ∧ ∀ f : Fsm, ∀ e ∈ es, f.MayRecord e :=
    ⟨[], ht, by simp⟩
  rcases hostPhase_cases h with ⟨_, rfl⟩ | ⟨off, _, _, rfl⟩ | ⟨off, v, _, _, _, rfl⟩ | ⟨v, _, he⟩
  · exact nothing rfl
  · obtain ⟨v, hv⟩ := hostRead_trace (s := s) off
    exact ⟨[.hostRead off v], hv, by simp [Fsm.MayRecord]⟩
  · exact nothing (by rw [hostWrite_frame])
  · by_cases hb : s.fsm = .idle
    · rw [hostPhase_idle_command hb v he] at nothing ⊢
      exact nothing (by rw [commandBody_frame])
    · rw [exec_command_busy _ (decodeCmd_format v) hb] at he
      injection he with he
      subst he
      exact nothing rfl

/-- An edge adds to the record only what the state it starts in allows. -/
theorem step_records (h : step s = .next t) : s.Records t := by
  obtain ⟨o, r, -, rfl⟩ | ⟨-, u, k, d, hu, rfl, -⟩ := step_parts h
  · obtain ⟨k, d, hr⟩ := resetEdge_parts s o
    exact records_of_trace_eq (by rw [hr])
  · obtain ⟨es, hes, hmay⟩ := hostPhase_records hu
    by_cases hf : s.fsm = .idle
    · refine ⟨es, ?_, hmay _⟩
      rw [hf]
      exact hes
    · have hin := hostPhase_busy_inside (s := s.dropCtlOut) hf hu
      obtain ⟨bs, hbs, hmay'⟩ := blockStep_records (hostPhase_blockStep hu)
      refine ⟨bs ++ es, ?_, fun e he => ?_⟩
      · rw [List.append_assoc]
        exact hbs.trans (congrArg (bs ++ ·) hes)
      · rcases List.mem_append.mp he with he | he
        · rw [show s.fsm = u.fsm from hin.fsm.symm]
          exact hmay' e he
        · exact hmay _ e he

/-- An event that the state does not allow was there before. -/
theorem State.Records.mem_of_not_mayRecord (h : s.Records t) {e : PortEvent} (he : ¬ s.fsm.MayRecord e)
    (ht : e ∈ t.trace) : e ∈ s.trace := by
  obtain ⟨es, htr, hmay⟩ := h
  rw [htr, List.mem_append] at ht
  exact ht.resolve_left fun hn => he (hmay e hn)

/-- Settles O60: the frame of a step, and the events it adds. -/
theorem stepAdvancesTheRecord : Obligations.StepAdvancesTheRecord := by
  unfold Obligations.StepAdvancesTheRecord
  intro s t h
  obtain ⟨hp, hin, hd⟩ := step_frame h
  obtain ⟨es, ht, -⟩ := step_records h
  exact ⟨hp, hin, hd, es, ht⟩

/-- A request on the command port carries the fields of the port word of the state (R48, R82). -/
theorem cmdFields_eq_some {f : CmdFields} (h : s.cmdFields = some f) :
    ∃ w, s.portWord = some w ∧ f = ⟨portMode w, portTarget w, portNrfsM1 w, portMrd w, s.params.cmdTimeout⟩ := by
  rw [State.cmdFields] at h
  split at h
  · obtain ⟨w, hw, he⟩ := Option.map_eq_some_iff.mp h
    exact ⟨w, hw, he.symm⟩
  · cases h

/-- Settles O31: a command of mode 7 is no event that an edge may add, and by the control invariant no state holds its word. -/
theorem reservedModeNeverSent : Obligations.ReservedModeNeverSent := by
  unfold Obligations.ReservedModeNeverSent
  refine ⟨fun s t w ok h h7 => ?recorded, fun s hc f hf => ?driven, fun s a n m hf => ?refused⟩
  case recorded => exact (step_records h).mem_of_not_mayRecord fun hmay => hmay h7
  case driven =>
    obtain ⟨w, hw, rfl⟩ := cmdFields_eq_some hf
    exact portWord_mode hw hc.sendable
  case refused =>
    simp only [exec, execPortRsvd, if_pos hf]
    rfl

end Sys2Proof.Machine

/-! The acceptance of DEINIT, SETMR and SENDCMD (R104, R106, R108) with O9, O10 and O11. Each has an equation per branch of its
rule; an immediate end is `finish_clearResult_idle`, and a start is `State.start` on the latches loaded. -/

namespace Sys2Proof.Machine

open Sys2Proof

variable {s : State}

/-! DEINIT. -/

theorem decodeCmd_deinit {w : Word} (h : cmdOp w = 2) : decodeCmd w = .deinit := by
  simp only [decodeCmd, h]
  rfl

theorem acceptDeinit_of_detached (ha : s.attached = false) : s.acceptDeinit = s.finish .ok .none := by
  simp [State.acceptDeinit, ha]

theorem acceptDeinit_of_attached (ha : s.attached = true) :
    s.acceptDeinit = ({ s with lTgt := cfgTarget s.cfga0 } : State).start .dPd :=
  if_pos ha

/-- Settles O9: in `IDLE` dispatch clears `RESULT`, and `ATTACHED` then selects the branch. -/
theorem deinitAcceptance : Obligations.DeinitAcceptance := by
  unfold Obligations.DeinitAcceptance
  refine ⟨fun w => decodeCmd_deinit, fun s hf => ?_⟩
  rw [exec_command_idle .deinit rfl hf, commandBody]
  refine ⟨fun ha => ?detached, fun ha => ?attached⟩
  case detached =>
    rw [acceptDeinit_of_detached (s := s.clearResult 2) ha, finish_clearResult_idle hf]
    rfl
  case attached =>
    rw [acceptDeinit_of_attached (s := s.clearResult 2) ha]
    rfl

/-! SETMR. -/

theorem decodeCmd_setmr {w : Word} (h : cmdOp w = 3) : decodeCmd w = .setmr := by
  simp only [decodeCmd, h]
  rfl

theorem acceptSetmr_of_detached (ha : s.attached = false) : s.acceptSetmr = s.finish .error .none := by
  simp [State.acceptSetmr, ha]

theorem acceptSetmr_of_attached (ha : s.attached = true) :
    s.acceptSetmr =
      ({ s with lMr := s.mrraw.extractLsb' 0 14, lTgt := cfgTarget s.cfga0 } : State).start .mLmr :=
  if_pos ha

/-- Settles O10: in `IDLE` dispatch clears `RESULT`, and `ATTACHED` then selects the branch. -/
theorem setmrAcceptance : Obligations.SetmrAcceptance := by
  unfold Obligations.SetmrAcceptance
  refine ⟨fun w => decodeCmd_setmr, fun s hf => ?_⟩
  rw [exec_command_idle .setmr rfl hf, commandBody]
  refine ⟨fun ha => ?detached, fun ha => ?attached⟩
  case detached =>
    rw [acceptSetmr_of_detached (s := s.clearResult 3) ha, finish_clearResult_idle hf]
    rfl
  case attached =>
    rw [acceptSetmr_of_attached (s := s.clearResult 3) ha]
    rfl

/-! SENDCMD. -/

theorem decodeCmd_sendcmd {w : Word} (h : cmdOp w = 4) : decodeCmd w = .sendcmd := by
  simp only [decodeCmd, h]
  rfl

theorem acceptSendcmd_of_detached (ha : s.attached = false) : s.acceptSendcmd = s.finish .error .none := by
  simp [State.acceptSendcmd, ha]

theorem acceptSendcmd_of_reserved (ha : s.attached = true) (h7 : scmdMode s.scmd = 7) :
    s.acceptSendcmd = s.finish .invalidParameter .reservedEnc := by
  rw [State.acceptSendcmd, if_pos ha, if_pos h7, State.refuseReservedMode]

theorem acceptSendcmd_of_sendable (ha : s.attached = true) (h7 : scmdMode s.scmd ≠ 7) :
    s.acceptSendcmd = ({ s with lScmd := s.scmd.extractLsb' 0 23 } : State).start .sCmd := by
  rw [State.acceptSendcmd, if_pos ha, if_neg h7]

/-- Settles O11: in `IDLE` dispatch clears `RESULT`; `ATTACHED` is tested first, and then the mode (R129.2). -/
theorem sendcmdAcceptance : Obligations.SendcmdAcceptance := by
  unfold Obligations.SendcmdAcceptance
  refine ⟨fun w => decodeCmd_sendcmd, fun s hf => ?_⟩
  rw [exec_command_idle .sendcmd rfl hf, commandBody]
  refine ⟨fun ha => ?detached, fun ha h7 => ?reserved, fun ha h7 => ?sendable⟩
  case detached =>
    rw [acceptSendcmd_of_detached (s := s.clearResult 4) ha, finish_clearResult_idle hf]
    rfl
  case reserved =>
    rw [acceptSendcmd_of_reserved (s := s.clearResult 4) ha h7, finish_clearResult_idle hf]
    rfl
  case sendable =>
    rw [acceptSendcmd_of_sendable (s := s.clearResult 4) ha h7]
    rfl

end Sys2Proof.Machine

/-! The transitions of the state register with O54 and O55, the writers of `ATTACHED` and of the active configuration with O56 and
O57, and the two request ports with O22. -/

namespace Sys2Proof.Machine

open Sys2Proof

variable {b s t : State} {p : Pins} {rest : List Edge}

/-! Transitions out of a busy state (R86). -/

/-- Where the answer to the command of a state leads (R87, R89, R90, R92, R105, R107, R108). -/
def Fsm.afterAnswer (ok : Bool) : Fsm → Fsm
  | .iCke => if ok then .iDly else .idle
  | .iPall => if ok then .iAref else .idle
  | .iAref => if ok then .iRdcas else .idle
  | .iLmr => if ok then .iRecon else .idle
  | .dPd | .mLmr | .sCmd => .idle
  | f => f

theorem cmdResponse_fsm (s : State) (ok : Bool) : (s.cmdResponse ok).fsm = s.fsm.afterAnswer ok := by
  cases hf : s.fsm with
  | iCke => rw [cmdResponse_iCke hf]; cases ok <;> rfl
  | iPall => rw [cmdResponse_iPall hf]; cases ok <;> rfl
  | iAref => rw [cmdResponse_iAref hf]; cases ok <;> rfl
  | iLmr => rw [cmdResponse_iLmr hf]; cases ok <;> rfl
  | dPd => rw [cmdResponse_dPd hf]; rfl
  | mLmr => rw [cmdResponse_mLmr hf]; cases ok <;> rfl
  | sCmd => rw [cmdResponse_sCmd hf]; rfl
  | idle | iDly | iRdcas | iRecon | iRtr =>
    simp only [State.cmdResponse, hf]
    rfl

theorem blockNext_fsm_onCmdPort (hc : s.fsm.onCmdPort = true) (h7 : s.fsm = .sCmd → portMode s.lScmd ≠ 7) :
    (blockNext s.fsm s).fsm =
      if s.cphase = .wait ∧ s.pins.cmdDone = true then s.fsm.afterAnswer s.pins.cmdOk else s.fsm := by
  obtain ⟨w, -, -, ⟨hp, e⟩ | ⟨-, hd, e⟩ | ⟨hp, hd, e⟩⟩ | ⟨hs, hm, -⟩ := blockNext_onCmdPort hc
  · rw [e, if_neg (by simp [hp])]
  · rw [e, if_neg (by simp [hd])]
  · rw [e, if_pos ⟨hp, hd⟩, cmdResponse_fsm, record_fsm]
  · exact absurd hm (h7 hs)

/-- A clock edge in a command state: the answer decides, whatever the host does. -/
theorem step_fsm_onCmdPort {f : Fsm} (hf : s.fsm = f) (hc : f.onCmdPort = true) (h7 : f = .sCmd → portMode s.lScmd ≠ 7)
    (hi : s.inputs = .clock p :: rest) (h : step s = .next t) :
    t.fsm = if s.cphase = .wait ∧ p.cmdDone = true then f.afterAnswer p.cmdOk else f := by
  subst hf
  have hin := step_busy_inside (ne_idle_of_transaction (.inl hc)) (inputs_ne_reset_of_clock hi) h
  rw [hin.fsm, ← pins_clock hi]
  exact blockNext_fsm_onCmdPort (s := s.dropCtlOut) hc h7

theorem stepDly_fsm (hf : s.fsm = .iDly) :
    s.stepDly.fsm = if s.pins.tick = true ∧ s.dcnt = s.params.powerupDelayTicks then .iPall else .iDly := by
  rw [State.stepDly]
  by_cases ht : s.pins.tick = true
  · by_cases hd : s.dcnt = s.params.powerupDelayTicks
    · rw [if_pos ht, if_pos hd, if_pos ⟨ht, hd⟩]; rfl
    · rw [if_pos ht, if_neg hd, if_neg fun h => hd h.2]; exact hf
  · rw [if_neg ht, if_neg fun h => ht h.1]; exact hf

theorem rtrResponse_fsm (s : State) (ok : Bool) : (s.rtrResponse ok).fsm = .idle := by
  cases ok <;> rfl

theorem stepRtr_fsm (hf : s.fsm = .iRtr) :
    s.stepRtr.fsm = if s.cphase = .wait ∧ s.pins.rtrDone = true then .idle else .iRtr := by
  obtain ⟨hp, e⟩ | ⟨-, hd, e⟩ | ⟨hp, hd, e⟩ := stepRtr_cases s
  · rw [e, if_neg (by simp [hp])]; exact hf
  · rw [e, if_neg (by simp [hd])]; exact hf
  · rw [e, if_pos ⟨hp, hd⟩, rtrResponse_fsm]

theorem stepRecon_fsm (s : State) : s.stepRecon.fsm = .iRtr := by
  by_cases h : casField s.params.casLsb s.ctlreg = casMrToCtl s.mrcas
  · rw [stepRecon_of_eq h]; rfl
  · rw [stepRecon_of_ne h]

/-- Settles O54: a command state goes where its answer leads, and each of the other four states where its own rule says. -/
theorem initTransitions : Obligations.InitTransitions := by
  unfold Obligations.InitTransitions
  intro s t p rest hi h
  have cmd {f : Fsm} (hf : s.fsm = f) (hc : f.onCmdPort = true) (h7 : f ≠ .sCmd) :=
    step_fsm_onCmdPort hf hc (fun e => absurd e h7) hi h
  refine ⟨fun hf => cmd hf rfl (by simp), fun hf => ?delay, fun hf => cmd hf rfl (by simp), fun hf => cmd hf rfl (by simp),
    fun hf => (step_clock_inside hf (by simp) hi h).fsm, fun hf => cmd hf rfl (by simp), fun hf => ?recon, fun hf => ?rtr⟩
  case delay =>
    rw [(step_clock_inside hf (by simp) hi h).fsm, ← pins_clock hi]
    exact stepDly_fsm (s := s.dropCtlOut) hf
  case recon =>
    rw [(step_clock_inside hf (by simp) hi h).fsm]
    exact stepRecon_fsm _
  case rtr =>
    rw [(step_clock_inside hf (by simp) hi h).fsm, ← pins_clock hi]
    exact stepRtr_fsm (s := s.dropCtlOut) hf

/-! Transitions out of `IDLE`. -/

theorem step_idle_no_command (hf : s.fsm = .idle) (hi : s.inputs = .clock p :: rest)
    (hp : ∀ v, p.host ≠ some (.write .word 0 v)) (h : step s = .next t) : s.dropCtlOut.SameInside t := by
  obtain ⟨o, r, hr, -⟩ | ⟨-, -, ht⟩ | ⟨-, v, hv, -⟩ := step_inside_cases h
  · exact absurd hr (inputs_ne_reset_of_clock hi o r)
  · rwa [hf] at ht
  · exact absurd (pins_clock hi ▸ hv) (hp v)

theorem step_idle_command {v : Word} (hf : s.fsm = .idle) (hi : s.inputs = .clock p :: rest)
    (hp : p.host = some (.write .word 0 v)) (h : step s = .next t) :
    (commandBody (decodeCmd v) s.dropCtlOut).SameInside t := by
  rw [← pins_clock hi] at hp
  obtain ⟨o, r, hr, -⟩ | ⟨-, hn, -⟩ | ⟨-, w, hw, ht⟩ := step_inside_cases h
  · exact absurd hr (inputs_ne_reset_of_clock hi o r)
  · exact absurd hp (hn hf v)
  · cases hp.symm.trans hw
    exact ht

theorem commandBody_init_fsm (s : State) :
    (commandBody .init s).fsm = if s.cfg0.getLsbD 31 = true then .iCke else .idle := by
  simp only [commandBody, State.acceptInit, apply_ite State.fsm]
  rfl

theorem commandBody_deinit_fsm (s : State) :
    (commandBody .deinit s).fsm = if s.attached = true then .dPd else .idle := by
  simp only [commandBody, State.acceptDeinit, apply_ite State.fsm]
  rfl

theorem commandBody_setmr_fsm (s : State) :
    (commandBody .setmr s).fsm = if s.attached = true then .mLmr else .idle := by
  simp only [commandBody, State.acceptSetmr, apply_ite State.fsm]
  rfl

theorem commandBody_sendcmd_fsm (s : State) :
    (commandBody .sendcmd s).fsm =
      if s.attached = true ∧ s.scmd.extractLsb' 0 3 ≠ (7 : BitVec 3) then .sCmd else .idle := by
  rw [commandBody]
  cases ha : s.attached with
  | false => rw [acceptSendcmd_of_detached (s := s.clearResult 4) ha, if_neg (by simp)]; rfl
  | true =>
    by_cases h7 : scmdMode s.scmd = 7
    · rw [acceptSendcmd_of_reserved (s := s.clearResult 4) ha h7, if_neg fun h => h.2 h7]; rfl
    · rw [acceptSendcmd_of_sendable (s := s.clearResult 4) ha h7, if_pos ⟨rfl, h7⟩]; rfl

/-- Only the four sequencer commands leave `IDLE`. -/
theorem commandBody_fsm_of_not_mem {i : Instr} (hf : s.fsm = .idle) (hi : i ∉ [Instr.init, .deinit, .setmr, .sendcmd]) :
    (commandBody i s).fsm = .idle := by
  obtain e | ⟨r, v, e, -⟩ | ⟨rfl, -⟩ | ⟨rfl, -⟩ | ⟨rfl, -⟩ | ⟨rfl, -⟩ := commandBody_cases i hf
  · rw [e]; exact hf
  · rw [e]; exact hf
  all_goals exact absurd hi (by decide)

/-- Settles O55: out of `IDLE` the accepted command decides, out of the other three the answer. -/
theorem commandTransitions : Obligations.CommandTransitions := by
  unfold Obligations.CommandTransitions
  intro s t p rest hi h
  refine ⟨fun hf hp => ?quiet, fun hf v hp => ?command, fun hf => ?dPd, fun hf => ?mLmr, fun hf h7 => ?sCmd⟩
  case quiet => exact (step_idle_no_command hf hi hp h).fsm.trans hf
  case command =>
    have hin := step_idle_command hf hi hp h
    refine ⟨fun hd => ?_, fun hd => ?_, fun hd => ?_, fun hd => ?_, fun hd => ?_⟩ <;> rw [hin.fsm]
    · rw [hd]; exact commandBody_init_fsm s.dropCtlOut
    · rw [hd]; exact commandBody_deinit_fsm s.dropCtlOut
    · rw [hd]; exact commandBody_setmr_fsm s.dropCtlOut
    · rw [hd]; exact commandBody_sendcmd_fsm s.dropCtlOut
    · exact commandBody_fsm_of_not_mem (s := s.dropCtlOut) hf hd
  case dPd => exact step_fsm_onCmdPort hf rfl (by simp) hi h
  case mLmr => exact step_fsm_onCmdPort hf rfl (by simp) hi h
  case sCmd => exact step_fsm_onCmdPort hf rfl (fun _ => h7) hi h

/-! The writers of `ATTACHED` (R26). -/

theorem blockStep_attached_cases (hb : BlockStep s b) :
    b.attached = s.attached ∨
    (b.attached = true ∧ s.fsm = .iRtr ∧ s.cphase = .wait ∧ s.pins.rtrDone = true ∧ s.pins.rtrOk = true) ∨
    (b.attached = false ∧ (s.fsm = .dPd ∨ (s.fsm.inInit = true ∧ b.fsm = .idle ∧ b.result.code = .error))) := by
  cases hb with
  | initFails _ _ _ _ _ hf => exact .inr (.inr ⟨rfl, .inr ⟨hf, rfl, rfl⟩⟩)
  | deinitEnds _ _ _ _ hf => exact .inr (.inr ⟨rfl, .inl hf⟩)
  | initSucceeds hf hp hd hk => exact .inr (.inl ⟨rfl, hf, hp, hd, hk⟩)
  | refreshFails hf => exact .inr (.inr ⟨rfl, .inr ⟨by rw [hf]; rfl, rfl, rfl⟩⟩)
  | _ => exact .inl rfl

theorem commandBody_attached_cases (hf : s.fsm = .idle) (i : Instr) :
    (commandBody i s).attached = s.attached ∨
    ((commandBody i s).attached = false ∧ (commandBody i s).fsm = .iCke) := by
  obtain e | ⟨r, v, e, -⟩ | ⟨-, e⟩ | ⟨-, -, e⟩ | ⟨-, -, e⟩ | ⟨-, -, -, e⟩ := commandBody_cases i hf <;> rw [e]
  case inr.inr.inl => exact .inr ⟨rfl, rfl⟩
  all_goals exact .inl rfl

/-- Settles O56: the block's part sets `ATTACHED` in `I_RTR` only; reset, the start of INIT and the block's part clear it. -/
theorem attachedWriters : Obligations.AttachedWriters := by
  unfold Obligations.AttachedWriters
  intro s t h
  obtain ⟨o, rest, hi, rfl⟩ | ⟨b, hb, ht⟩ | ⟨hf, i, ht⟩ := step_blockStep_cases h
  · obtain ⟨k, d, hr⟩ := resetEdge_parts s o
    refine ⟨fun _ ha => ?_, fun _ _ => .inl ⟨o, rest, hi⟩⟩
    rw [hr] at ha
    cases ha
  · rw [ht.attached, ht.fsm, ht.result]
    obtain he | ⟨ha, hset⟩ | ⟨ha, hclear⟩ := blockStep_attached_cases hb
    · rw [he]
      exact ⟨fun h0 h1 => by simp [h0] at h1, fun h1 h0 => by simp [h1] at h0⟩
    · exact ⟨fun _ _ => hset, fun _ h0 => by simp [ha] at h0⟩
    · exact ⟨fun _ h1 => by simp [ha] at h1, fun _ _ => .inr (.inr hclear)⟩
  · rw [ht.attached, ht.fsm]
    obtain he | ⟨ha, hcke⟩ := commandBody_attached_cases (s := s.dropCtlOut) hf i
    · rw [he]
      exact ⟨fun h0 h1 => by simp [h0] at h1, fun h1 h0 => by simp [h1] at h0⟩
    · exact ⟨fun _ h1 => by simp [ha] at h1, fun _ _ => .inr (.inl ⟨hf, hcke⟩)⟩

/-! The writers of the active configuration (R34, R101). -/

theorem blockStep_config_cases (hb : BlockStep s b) :
    (b.cfga0 = s.cfga0 ∧ b.cfga1 = s.cfga1) ∨
    (b.fsm = .idle ∧ (s.fsm = .dPd ∨ (s.fsm = .mLmr ∧ s.pins.cmdOk = true ∧ b.cfga1 = s.cfga1) ∨
      (s.fsm.inInit = true ∧ (b.attached = true ∨ (b.cfga0 = 0 ∧ b.cfga1 = 0))))) := by
  cases hb with
  | initFails _ _ _ _ _ hf => exact .inr ⟨rfl, .inr (.inr ⟨hf, .inr ⟨rfl, rfl⟩⟩)⟩
  | deinitEnds _ _ _ _ hf => exact .inr ⟨rfl, .inl hf⟩
  | setmrSucceeds _ _ _ hf hk => exact .inr ⟨rfl, .inr (.inl ⟨hf, hk, rfl⟩)⟩
  | initSucceeds hf => exact .inr ⟨rfl, .inr (.inr ⟨by rw [hf]; rfl, .inl rfl⟩)⟩
  | refreshFails hf => exact .inr ⟨rfl, .inr (.inr ⟨by rw [hf]; rfl, .inr ⟨rfl, rfl⟩⟩)⟩
  | _ => exact .inl ⟨rfl, rfl⟩

/-- Settles O57: an accepted command writes neither register, and the block's part writes them where an operation ends. -/
theorem activeConfigWriters : Obligations.ActiveConfigWriters := by
  unfold Obligations.ActiveConfigWriters
  intro s t h hne
  obtain ⟨o, rest, hi, -⟩ | ⟨b, hb, ht⟩ | ⟨hf, i, ht⟩ := step_blockStep_cases h
  · exact .inl ⟨o, rest, hi⟩
  · rw [ht.cfga0, ht.cfga1] at hne
    rw [ht.cfga0, ht.cfga1, ht.fsm, ht.attached]
    obtain ⟨h0, h1⟩ | hw := blockStep_config_cases hb
    · rw [h0, h1] at hne
      exact absurd hne (by simp)
    · exact .inr hw
  · rw [ht.cfga0, ht.cfga1, commandBody_frame] at hne
    exact absurd hne (by simp)

/-! The request ports (R53, R54). -/

theorem State.SameInside.cmdReq (h : b.SameInside t) : t.cmdReq = b.cmdReq := by
  rw [State.cmdReq, State.cmdReq, h.fsm, h.cphase]

theorem State.SameInside.rtrReq (h : b.SameInside t) : t.rtrReq = b.rtrReq := by
  rw [State.rtrReq, State.rtrReq, h.fsm, h.cphase]

theorem State.SameInside.cmdFields (h : b.SameInside t) : t.cmdFields = b.cmdFields := by
  have hw : t.portWord = b.portWord := by
    rw [State.portWord, State.portWord, h.fsm, h.lCfg0, h.lMr, h.lTgt, h.lScmd, h.params]
  rw [State.cmdFields, State.cmdFields, h.cmdReq, hw, h.params]

theorem State.SameInside.rtrValue (h : b.SameInside t) : t.rtrValue = b.rtrValue := by
  rw [State.rtrValue, State.rtrValue, h.rtrReq, h.lCfg1]

theorem cmdReq_iff : s.cmdReq = true ↔ s.fsm.onCmdPort = true ∧ s.cphase = .wait := by
  simp [State.cmdReq]

theorem rtrReq_iff : s.rtrReq = true ↔ s.fsm = .iRtr ∧ s.cphase = .wait := by
  simp [State.rtrReq]

/-- Neither request is driven. -/
def State.Quiet (s : State) : Prop := s.cmdReq = false ∧ s.rtrReq = false

theorem quiet_of_fsm (hc : s.fsm.onCmdPort = false) (hr : s.fsm ≠ .iRtr) : s.Quiet := by
  constructor
  · rw [State.cmdReq, hc]; rfl
  · simp [State.rtrReq, hr]

theorem quiet_of_idle (hf : s.fsm = .idle) : s.Quiet := quiet_of_fsm (by rw [hf]; rfl) (by simp [hf])

theorem quiet_of_enter (hp : s.cphase = .enter) : s.Quiet := by
  constructor
  · simp [State.cmdReq, hp]
  · simp [State.rtrReq, hp]

theorem State.Quiet.of_sameInside (h : b.Quiet) (hs : b.SameInside t) : t.Quiet :=
  ⟨hs.cmdReq.trans h.1, hs.rtrReq.trans h.2⟩

/-- The answer to a command leads to a state without a request, or into the `ENTER` phase of the next transaction. -/
theorem cmdResponse_quiet (hc : s.fsm.onCmdPort = true) (ok : Bool) : (s.cmdResponse ok).Quiet := by
  by_cases hs : s.fsm = .iPall ∧ ok = true
  · obtain ⟨hf, rfl⟩ := hs
    rw [cmdResponse_iPall hf]
    exact quiet_of_enter rfl
  · have hq : (s.fsm.afterAnswer ok).onCmdPort = false ∧ s.fsm.afterAnswer ok ≠ .iRtr := by
      revert hc hs
      cases s.fsm <;> cases ok <;> decide
    rw [← cmdResponse_fsm] at hq
    exact quiet_of_fsm hq.1 hq.2

theorem resetEdge_quiet (s : State) (o : Option Word) : (s.resetEdge o).Quiet := by
  obtain ⟨k, d, h⟩ := resetEdge_parts s o
  rw [h]
  exact quiet_of_idle rfl

/-- After an edge of a busy block: reset, with no request; or the block's part alone. -/
theorem step_busy_quiet_or_inside (hb : s.fsm ≠ .idle) (h : step s = .next t) :
    t.Quiet ∨ (blockNext s.fsm s.dropCtlOut).SameInside t := by
  obtain ⟨o, rest, -, rfl⟩ | ⟨-, -, ht⟩ | ⟨hf, -⟩ := step_inside_cases h
  · exact .inl (resetEdge_quiet s o)
  · exact .inr ht
  · exact absurd hf hb

/-- A cycle with a command request: it is not answered and stays as it is, or no request follows. -/
theorem step_of_cmdReq (hr : s.cmdReq = true) (h : step s = .next t) :
    t.Quiet ∨ (s.pins.cmdDone = false ∧ s.dropCtlOut.SameInside t) := by
  obtain ⟨hc, hp⟩ := cmdReq_iff.mp hr
  obtain hq | hin := step_busy_quiet_or_inside (ne_idle_of_transaction (.inl hc)) h
  · exact .inl hq
  obtain ⟨w, -, -, ⟨hp', -⟩ | ⟨-, hd, e⟩ | ⟨-, -, e⟩⟩ | ⟨-, -, e⟩ := blockNext_onCmdPort (s := s.dropCtlOut) hc
  · cases hp.symm.trans hp'
  · exact .inr ⟨hd, e ▸ hin⟩
  · exact .inl ((cmdResponse_quiet (s := s.dropCtlOut.record _) hc _).of_sameInside (e ▸ hin))
  · exact .inl (.of_sameInside (quiet_of_idle rfl) (e ▸ hin))

/-- The same for the refresh-timer request. -/
theorem step_of_rtrReq (hr : s.rtrReq = true) (h : step s = .next t) :
    t.Quiet ∨ (s.pins.rtrDone = false ∧ s.dropCtlOut.SameInside t) := by
  obtain ⟨hf, hp⟩ := rtrReq_iff.mp hr
  obtain hq | hin := step_busy_quiet_or_inside (ne_idle_of_transaction (.inr hf)) h
  · exact .inl hq
  have hrtr : s.dropCtlOut.stepRtr.SameInside t := by rwa [hf] at hin
  obtain ⟨hp', -⟩ | ⟨-, hd, e⟩ | ⟨-, -, e⟩ := stepRtr_cases s.dropCtlOut
  · cases hp.symm.trans hp'
  · exact .inr ⟨hd, e ▸ hrtr⟩
  · exact .inl (.of_sameInside (quiet_of_idle (rtrResponse_fsm _ _)) (e ▸ hrtr))

theorem not_cmdReq_and_rtrReq (s : State) : ¬(s.cmdReq = true ∧ s.rtrReq = true) := by
  rw [cmdReq_iff, rtrReq_iff]
  rintro ⟨⟨hc, -⟩, hf, -⟩
  rw [hf] at hc
  cases hc

/-- Settles O22: an answered request is followed by a quiet cycle, an unanswered one by the same request. -/
theorem oneRequestAtATime : Obligations.OneRequestAtATime := by
  unfold Obligations.OneRequestAtATime
  refine ⟨not_cmdReq_and_rtrReq, fun s t h => ⟨fun hr => ?cmd, fun hr => ?rtr⟩⟩
  case cmd =>
    obtain ⟨hc, hq⟩ | ⟨hd, hs⟩ := step_of_cmdReq hr h
    · exact ⟨hq, fun _ => hc, fun hc' => by rw [hc] at hc'; cases hc'⟩
    · have hc : t.cmdReq = true := hs.cmdReq.trans hr
      refine ⟨?_, by simp [hd], fun _ => ⟨hs.cmdFields, hs.fsm⟩⟩
      simpa [hc] using not_cmdReq_and_rtrReq t
  case rtr =>
    obtain ⟨hc, hq⟩ | ⟨hd, hs⟩ := step_of_rtrReq hr h
    · exact ⟨hc, fun _ => hq, fun hq' => by rw [hq] at hq'; cases hq'⟩
    · have hq : t.rtrReq = true := hs.rtrReq.trans hr
      refine ⟨?_, by simp [hd], fun _ => hs.rtrValue⟩
      simpa [hq] using not_cmdReq_and_rtrReq t

end Sys2Proof.Machine

/-! The host's part of an edge, access by access, with O43 and O45; the three parts put together in a step, with O4; and the
reset edge, with O48. -/

namespace Sys2Proof.Machine

open Sys2Proof

variable {s t : State} {off : Nat} {v : Word}

/-! The host's part. -/

theorem hostPhase_read (h : s.pins.host = some (.read .word off)) (ho : off % 4 = 0) :
    s.hostPhase = .next (s.hostRead off) := by
  simp [State.hostPhase, h, ho]

theorem hostPhase_write (h : s.pins.host = some (.write .word off v)) (ho : off % 4 = 0) (h0 : off ≠ 0) :
    s.hostPhase = .next (s.hostWrite off v) := by
  simp [State.hostPhase, h, ho, h0]

/-- A write to `CMD` runs the instruction of its word (R23). -/
theorem hostPhase_command (h : s.pins.host = some (.write .word 0 v)) : s.hostPhase = exec (decodeCmd v) s := by
  simp [State.hostPhase, h]

/-! Reads. -/

theorem hostRead_of_readMapped (h : readMapped s off = some v) :
    s.hostRead off = { s with trace := .hostRead off v :: s.trace } := by
  rw [State.hostRead, h]
  rfl

/-- The map ends at 0x3C (R22). -/
theorem readMapped_of_ge (h : 64 ≤ off) : readMapped s off = none := by
  unfold readMapped
  split
  case h_17 => rfl
  all_goals omega

theorem hostRead_inside_window (h : 64 ≤ off) (hs : off < s.params.regSpan) :
    s.hostRead off = { s with trace := .hostRead off 0 :: s.trace } := by
  rw [State.hostRead, readMapped_of_ge h]
  exact if_pos hs

theorem hostRead_past_window (h : s.params.regSpan ≤ off) :
    s.hostRead off =
      { s with draws := s.draws + 1, trace := .hostRead off (Config.freeWord s.draws) :: s.trace } := by
  rw [State.hostRead, readMapped_of_ge (s.params.regSpan_ge.trans h)]
  exact if_neg (Nat.not_lt.mpr h)

/-- Settles O43: the register map entry by entry, and the three ranges of offsets. -/
theorem hostReads : Obligations.HostReads := by
  unfold Obligations.HostReads
  refine ⟨fun s => ?map, fun s off h ho => ⟨fun v hv => ?mapped, fun h64 hs => ?inside, fun hs => ⟨Config.freeWord s.draws, ?past⟩⟩⟩
  case map =>
    have hcap : (BitVec.ofNat 32 s.params.capacity).toNat = s.params.capacity := by
      rw [BitVec.toNat_ofNat, Nat.mod_eq_of_lt s.params.capacity_fits]
    exact ⟨rfl, rfl, rfl, rfl, rfl, rfl, rfl, rfl, rfl, rfl, rfl, rfl, rfl, rfl, rfl, _, rfl, hcap⟩
  case mapped => rw [hostPhase_read h ho, hostRead_of_readMapped hv]
  case inside => rw [hostPhase_read h ho, hostRead_inside_window h64 hs]
  case past => rw [hostPhase_read h ho, hostRead_past_window hs]

/-! Writes. -/

/-- The read-only registers and the offsets past the map have no write rule (R22, R27, R28, R34, R36, R47). -/
theorem hostWrite_ignored (h : off = 0x08 ∨ off = 0x0C ∨ 0x34 ≤ off) (v : Word) : s.hostWrite off v = s := by
  unfold State.hostWrite
  split
  case h_11 => rfl
  all_goals omega

/-- Settles O45: at each offset the write rule of its register. -/
theorem hostWrites : Obligations.HostWrites := by
  unfold Obligations.HostWrites
  intro s off v h
  have status (off4 : off = 0x04) : s.hostPhase = .next (if v.getLsbD 2 then { s with rejected := false } else s) := by
    subst off4
    exact hostPhase_write h rfl (by decide)
  refine ⟨fun ho hv => by rw [status ho, hv]; rfl, fun ho hv => by rw [status ho, hv]; rfl,
    ?_, ?_, ?_, ?_, ?_, ?_, ?_, ?_, ?_, fun ho hr => ?ignored⟩
  case ignored => rw [hostPhase_write h ho (by omega), hostWrite_ignored hr]
  all_goals
    rintro rfl
    exact hostPhase_write h rfl (by decide)

/-! The three parts of a step. -/

/-- In a command state the block's part runs the controller command that the state holds (R82). -/
theorem blockPhase_onCmdPort {f : Fsm} {w : PortWord} (hf : f.onCmdPort = true) (hw : s.portWord = some w) :
    s.blockPhase f = exec (decodePort w) s := by
  cases f with
  | iCke | iPall | iAref | iLmr | dPd | mLmr | sCmd => simp only [State.blockPhase, hw]
  | idle | iDly | iRdcas | iRecon | iRtr => cases hf

/-- A clock edge whose host's part and block's part answer a next state. -/
theorem step_of_phases {p : Pins} {rest : List Edge} {u : State} (hi : s.inputs = .clock p :: rest)
    (ht : s.dropCtlOut.hostPhase = .next t) (hu : t.blockPhase s.fsm = .next u) :
    step s = .next (u.ctlEdge s.ctlOut p.ctlOther).advance := by
  rw [blockPhase_next] at hu
  injection hu with hu
  rw [step_clock hi ht, hu]

/-- Settles O4: the parts in their order; with a `CMD` write in `IDLE` the block's part is none, and with no host access the
host's part is none. -/
theorem stepRunsDecodedInstruction : Obligations.StepRunsDecodedInstruction := by
  unfold Obligations.StepRunsDecodedInstruction
  refine ⟨fun s t u p rest hi ht hu => step_of_phases hi ht hu, fun s p rest v hi hp hf t ht => ?command,
    fun s p rest w hi hp hf hw t ht => ?port⟩
  case command =>
    rw [← pins_clock hi] at hp
    exact step_of_phases hi ((hostPhase_command (s := s.dropCtlOut) hp).trans ht) (by rw [hf]; rfl)
  case port =>
    rw [← pins_clock hi] at hp
    exact step_of_phases hi (hostPhase_none (s := s.dropCtlOut) hp)
      ((blockPhase_onCmdPort (s := s.dropCtlOut) hf hw).trans ht)

/-! Reset. -/

/-- While the block is idle and drives nothing, `CTLREG` keeps its value over a reset edge or takes another agent's. -/
theorem resetEdge_ctlreg_of_idle (hf : s.fsm = .idle) (ho : s.ctlOut = none) (other : Option Word) :
    (s.resetEdge other).ctlreg = other.getD s.ctlreg ∧ (s.resetEdge other).draws = s.draws := by
  simp only [State.resetEdge, if_pos hf, ho]
  cases other <;> exact ⟨rfl, rfl⟩

/-- Settles O48: the free parts of a reset edge are `CTLREG` and the count of free words. -/
theorem resetEdge : Obligations.ResetEdge := by
  unfold Obligations.ResetEdge
  intro s other rest hi
  obtain ⟨k, d, h⟩ := resetEdge_parts s other
  refine ⟨k, d, ?_, fun hf ho => ?_⟩
  · rw [step_reset hi, h, hi]
    rfl
  · have hidle := resetEdge_ctlreg_of_idle hf ho other
    rwa [h] at hidle

end Sys2Proof.Machine

/-! One edge from two states that differ outside the block, with O46, O58 and O59. The block's part carries through whatever
stands outside it (`blockNext_outside`); three cases of that are wanted: the staged and operand registers, `CTLREG` away
from the two states that read it, and the port events together with the inputs. -/

namespace Sys2Proof.Machine

open Sys2Proof

variable {s t u : State}

/-! The staged and operand registers (R38, R145). -/

/-- `s` with the staged and operand registers of `x`. -/
def State.withOperands (s x : State) : State :=
  { s with
    cfg0 := x.cfg0, cfg1 := x.cfg1, mrraw := x.mrraw, scmd := x.scmd, offset := x.offset, len := x.len, buf := x.buf
    clkmhz := x.clkmhz, refms := x.refms }

/-- The block's part of an edge carries through whatever stands outside it, with the same new port events. -/
theorem blockNext_outside_self (f : Fsm) (s x : State) (hp : x.pins.sameForBlock s.pins)
    (hc : f = .iRdcas ∨ f = .iRecon → x.ctlreg = s.ctlreg) :
    blockNext f (s.outside x) = (blockNext f s).outside x := by
  obtain ⟨es, htrace, h⟩ := blockNext_outside f s x s.trace hp hc
  rw [← htrace] at h
  exact h

theorem blockNext_withOperands (f : Fsm) (x s : State) : blockNext f (s.withOperands x) = (blockNext f s).withOperands x := by
  have h := blockNext_outside_self f s (s.withOperands x) ⟨rfl, rfl, rfl, rfl, rfl⟩ fun _ => rfl
  rw [blockNext_frame f s] at h ⊢
  exact h

theorem ctlEdge_withOperands (out other : Option Word) (x s : State) :
    (s.withOperands x).ctlEdge out other = (s.ctlEdge out other).withOperands x := by
  cases out <;> cases other <;> rfl

/-- The 9-field update of the statement, as `withOperands`. -/
theorem step_withOperands {p : Pins} {rest : List Edge} (hi : s.inputs = .clock p :: rest) (hp : p.host = none)
    (h : step s = .next t) (x : State) : step (s.withOperands x) = .next (t.withOperands x) := by
  rw [step_clock_quiet hi hp] at h
  injection h with h
  have hx : (s.withOperands x).dropCtlOut = s.dropCtlOut.withOperands x := rfl
  rw [step_clock_quiet (s := s.withOperands x) hi hp, hx, blockNext_withOperands, ← h]
  exact congrArg (fun u => Host.Outcome.next u.advance) (ctlEdge_withOperands _ _ _ _)

/-- Settles O58: with no host access the host's part is none, and the other two parts carry the registers through. -/
theorem operandsDoNotReachRunningOperation : Obligations.OperandsDoNotReachRunningOperation := by
  unfold Obligations.OperandsDoNotReachRunningOperation
  intro s t p rest c0 c1 mr sc o l b f r hi hp _ h
  exact step_withOperands hi hp h { s with
    cfg0 := c0, cfg1 := c1, mrraw := mr, scmd := sc, offset := o, len := l, buf := b, clkmhz := f, refms := r }

/-! `CTLREG` away from `I_RDCAS` and `I_RECON` (R41). -/

/-- `s` with another value in `CTLREG`. -/
def State.withCtlreg (k : Word) (s : State) : State := { s with ctlreg := k }

theorem blockNext_withCtlreg {f : Fsm} (h5 : f ≠ .iRdcas) (h7 : f ≠ .iRecon) (s : State) (k : Word) :
    blockNext f (s.withCtlreg k) = (blockNext f s).withCtlreg k := by
  have h := blockNext_outside_self f s (s.withCtlreg k) ⟨rfl, rfl, rfl, rfl, rfl⟩ fun h => absurd h (by tauto)
  rw [blockNext_frame f s] at h ⊢
  exact h

/-- No command's acceptance reads `CTLREG`. -/
theorem commandBody_withCtlreg (i : Instr) (s : State) (k : Word) :
    commandBody i (s.withCtlreg k) = (commandBody i s).withCtlreg k := by
  cases i with
  | init | deinit | setmr | sendcmd | chkaccB | chkaccH | chkaccW | calcref =>
    simp only [commandBody, State.acceptInit, State.acceptDeinit, State.acceptSetmr, State.acceptSendcmd,
      State.checkAccess, State.calcRefresh, apply_ite (State.withCtlreg k)]
    rfl
  | _ => rfl

theorem hostRead_withCtlreg (off : Nat) (s : State) (k : Word) :
    (s.withCtlreg k).hostRead off = (s.hostRead off).withCtlreg k := by
  have hmap : readMapped (s.withCtlreg k) off = readMapped s off := rfl
  simp only [State.hostRead, hmap]
  cases readMapped s off with
  | some v => rfl
  | none => simp only [apply_ite (State.withCtlreg k)]; rfl

theorem hostWrite_withCtlreg (off : Nat) (v : Word) (s : State) (k : Word) :
    (s.withCtlreg k).hostWrite off v = (s.hostWrite off v).withCtlreg k := by
  unfold State.hostWrite
  split
  case h_1 => simp only [apply_ite (State.withCtlreg k)]; rfl
  all_goals rfl

/-- The host's part of an edge neither reads nor writes `CTLREG`. -/
theorem hostPhase_withCtlreg (h : s.hostPhase = .next u) (k : Word) :
    (s.withCtlreg k).hostPhase = .next (u.withCtlreg k) := by
  rcases hostPhase_cases h with ⟨hp, rfl⟩ | ⟨off, hp, ho, rfl⟩ | ⟨off, v, hp, ho, h0, rfl⟩ | ⟨v, hp, he⟩
  · exact hostPhase_none hp
  · rw [hostPhase_read (s := s.withCtlreg k) hp ho, hostRead_withCtlreg]
  · rw [hostPhase_write (s := s.withCtlreg k) hp ho h0, hostWrite_withCtlreg]
  · rw [hostPhase_command (s := s.withCtlreg k) hp]
    by_cases hf : s.fsm = .idle
    · rw [hostPhase_idle_command hf v he, exec_command_idle _ (decodeCmd_format v) (s := s.withCtlreg k) hf,
        commandBody_withCtlreg]
    · rw [exec_command_busy _ (decodeCmd_format v) hf] at he
      injection he with he
      rw [exec_command_busy _ (decodeCmd_format v) (s := s.withCtlreg k) hf, ← he]
      rfl

/-- A clock edge with nothing on the controller register port and no other writer, from two values of `CTLREG`. -/
theorem step_withCtlreg {p : Pins} {rest : List Edge} (hi : s.inputs = .clock p :: rest) (h5 : s.fsm ≠ .iRdcas)
    (h7 : s.fsm ≠ .iRecon) (ho : s.ctlOut = none) (hp : p.ctlOther = none) (h : step s = .next t) (k : Word) :
    step (s.withCtlreg k) = .next (t.withCtlreg k) := by
  obtain ⟨o, r, hr, -⟩ | ⟨-, u, hu, rfl⟩ := step_cases h
  · exact absurd hr (inputs_ne_reset_of_clock hi o r)
  · rw [step_clock (s := s.withCtlreg k) hi (hostPhase_withCtlreg (s := s.dropCtlOut) hu k), pins_clock hi, hp,
      show (s.withCtlreg k).ctlOut = none from ho, show (s.withCtlreg k).fsm = s.fsm from rfl,
      blockNext_withCtlreg h5 h7, ho]
    rfl

/-- Settles O59: the three parts carry `CTLREG` through, and the two states left out are those that record an access to it. -/
theorem ctlregReachedInTwoStates : Obligations.CtlregReachedInTwoStates := by
  unfold Obligations.CtlregReachedInTwoStates
  intro s t p rest hi h5 h7 ho hp h
  have hrec := step_records h
  refine ⟨step_withCtlreg hi h5 h7 ho hp h, ?kept, fun v => ⟨?read, ?write⟩⟩
  case kept => rw [step_ctlreg hi hp h, ho]; rfl
  case read => exact hrec.mem_of_not_mayRecord fun hm => hm.elim h5 h7
  case write => exact hrec.mem_of_not_mayRecord fun hm => h7 hm

/-! A host read (R58). -/

/-- The block's part carries the port events and the inputs through, but for adding its own event. -/
theorem blockNext_trace_inputs (f : Fsm) (s : State) (tr : List PortEvent) (es : List Edge)
    (hp : ({ s with inputs := es } : State).pins.sameForBlock s.pins) :
    ∃ tr', blockNext f { s with trace := tr, inputs := es } = { blockNext f s with trace := tr', inputs := es } := by
  obtain ⟨new, -, h⟩ := blockNext_outside f s { s with inputs := es } tr hp fun _ => rfl
  refine ⟨new ++ tr, ?_⟩
  rw [blockNext_frame f s] at h ⊢
  exact h

theorem ctlEdge_trace_inputs (out other : Option Word) (s : State) (tr : List PortEvent) (es : List Edge) :
    ({ s with trace := tr, inputs := es } : State).ctlEdge out other =
      { s.ctlEdge out other with trace := tr, inputs := es } := by
  cases out <;> cases other <;> rfl

/-- So everything after the host's part of an edge does; the inputs of the cycle are gone at its end. -/
theorem afterHost_trace (f : Fsm) (out other : Option Word) (tr : List PortEvent) {es : List Edge}
    (hp : ({ s with inputs := es } : State).pins.sameForBlock s.pins) (ht : es.tail = s.inputs.tail) :
    ∃ tr', ((blockNext f { s with trace := tr, inputs := es }).ctlEdge out other).advance =
      { ((blockNext f s).ctlEdge out other).advance with trace := tr' } := by
  obtain ⟨tr', htr⟩ := blockNext_trace_inputs f s tr es hp
  have hin : ((blockNext f s).ctlEdge out other).inputs = s.inputs := by rw [ctlEdge_frame, blockNext_frame]
  exact ⟨tr', by rw [htr, ctlEdge_trace_inputs]; simp only [State.advance, ht, hin]⟩

/-- A host read inside the window is recorded and changes nothing else (R47, R58). -/
theorem hostRead_of_lt_regSpan {off : Nat} (h : off < s.params.regSpan) :
    ∃ v, s.hostRead off = { s with trace := .hostRead off v :: s.trace } := by
  rw [State.hostRead]
  cases readMapped s off with
  | some v => exact ⟨v, rfl⟩
  | none => exact ⟨0, if_pos h⟩

theorem step_clock_read {p : Pins} {rest : List Edge} {off : Nat} (hi : s.inputs = .clock p :: rest)
    (hp : p.host = some (.read .word off)) (ho : off % 4 = 0) :
    step s = .next ((blockNext s.fsm (s.dropCtlOut.hostRead off)).ctlEdge s.ctlOut p.ctlOther).advance :=
  step_clock hi (hostPhase_read (by rwa [dropCtlOut_pins, pins_clock hi]) ho)

/-- Settles O46: the read adds an event, and the rest of the edge carries the events through. -/
theorem hostReadHasNoSideEffect : Obligations.HostReadHasNoSideEffect := by
  unfold Obligations.HostReadHasNoSideEffect
  intro s p rest off t hp ho hs h
  rw [step_clock_quiet rfl hp] at h
  injection h with h
  obtain ⟨v, hv⟩ := hostRead_of_lt_regSpan (s := ({ s with
    inputs := .clock { p with host := some (.read .word off) } :: rest } : State).dropCtlOut) hs
  obtain ⟨tr, htr⟩ := afterHost_trace (s := ({ s with inputs := .clock p :: rest } : State).dropCtlOut) s.fsm s.ctlOut
    p.ctlOther (.hostRead off v :: s.trace) (es := .clock { p with host := some (.read .word off) } :: rest)
    ⟨rfl, rfl, rfl, rfl, rfl⟩ rfl
  refine ⟨tr, ?_⟩
  rw [step_clock_read rfl rfl ho, hv, ← h]
  exact congrArg Host.Outcome.next htr

end Sys2Proof.Machine

/-! The validator again (R118, R119, R121): rounding with O17, the even count of CALCREF with O18, and what the validator neither
reads nor writes with O20. -/

namespace Sys2Proof.Machine

open Sys2Proof

variable {s : State}

/-! Rounding (R119). -/

theorem roundQuot_up_of_lt {n r : Nat} (h : 2 * (n % r) < r) : roundQuot .up n r = n / r := by
  have hn := Nat.div_add_mod n r
  have hq : n / r * (2 * r) = 2 * (r * (n / r)) := by ring
  have hq' : (n / r + 1) * (2 * r) = 2 * (r * (n / r)) + 2 * r := by ring
  exact Nat.div_eq_of_lt_le (by omega) (by omega)

theorem roundQuot_up_of_le {n r : Nat} (hr : 0 < r) (h : r ≤ 2 * (n % r)) : roundQuot .up n r = n / r + 1 := by
  have hn := Nat.div_add_mod n r
  have hm := Nat.mod_lt n hr
  have hq : (n / r + 1) * (2 * r) = 2 * (r * (n / r)) + 2 * r := by ring
  have hq' : (n / r + 1 + 1) * (2 * r) = 2 * (r * (n / r)) + 4 * r := by ring
  exact Nat.div_eq_of_lt_le (by omega) (by omega)

theorem roundQuot_down (n r : Nat) : roundQuot .down n r = if 2 * (n % r) ≤ r then n / r else n / r + 1 := rfl

theorem roundQuot_even_of_tie {n r : Nat} (h : 2 * (n % r) = r) : roundQuot .even n r = n / r + n / r % 2 := if_pos h

theorem roundQuot_even_of_ne {n r : Nat} (h : 2 * (n % r) ≠ r) : roundQuot .even n r = roundQuot .up n r := if_neg h

/-- Every rule rounds down with a remainder of at most half, or up with one of at least half. -/
theorem roundQuot_cases (ties : RoundTies) {n r : Nat} (hr : 0 < r) :
    (2 * (n % r) ≤ r ∧ roundQuot ties n r = n / r) ∨ (r ≤ 2 * (n % r) ∧ roundQuot ties n r = n / r + 1) := by
  have up : (2 * (n % r) ≤ r ∧ roundQuot .up n r = n / r) ∨ (r ≤ 2 * (n % r) ∧ roundQuot .up n r = n / r + 1) := by
    obtain h | h := Nat.lt_or_ge (2 * (n % r)) r
    · exact .inl ⟨h.le, roundQuot_up_of_lt h⟩
    · exact .inr ⟨h, roundQuot_up_of_le hr h⟩
  cases ties with
  | up => exact up
  | down =>
    rw [roundQuot_down]
    split
    case isTrue h => exact .inl ⟨h, rfl⟩
    case isFalse h => exact .inr ⟨by omega, rfl⟩
  | even =>
    by_cases h : 2 * (n % r) = r
    · rw [roundQuot_even_of_tie h]
      omega
    · rwa [roundQuot_even_of_ne h]

/-- Settles O17: the two neighbours are at `n % r` and at `r - n % r` from the exact quotient, in units of `1 / r`. -/
theorem roundingIsNearest : Obligations.RoundingIsNearest := by
  unfold Obligations.RoundingIsNearest
  intro ties n r hr
  have hn := Nat.div_add_mod n r
  have hm := Nat.mod_lt n hr
  have hq : n / r * r = r * (n / r) := Nat.mul_comm _ _
  have hq' : (n / r + 1) * r = r * (n / r) + r := by ring
  have nearest : 2 * (roundQuot ties n r * r) ≤ 2 * n + r ∧ 2 * n ≤ 2 * (roundQuot ties n r * r) + r := by
    obtain ⟨h, e⟩ | ⟨h, e⟩ := roundQuot_cases ties (n := n) hr <;> rw [e] <;> omega
  refine ⟨nearest.1, nearest.2, fun h => ⟨roundQuot_up_of_le hr h.ge, ?down, ?even⟩⟩
  case down => rw [roundQuot_down, if_pos h.le]
  case even => rw [roundQuot_even_of_tie h]; omega

/-! CALCREF (R118, R149). -/

theorem refreshCount_even (p : Params) (f t : Nat) : refreshCount p f t % 2 = 0 := by
  simp only [refreshCount]
  omega

/-- Settles O18: the count is even before it is stored, and a count that is stored fits the register. -/
theorem calcrefCountIsEven : Obligations.CalcrefCountIsEven := by
  unfold Obligations.CalcrefCountIsEven
  intro s hf
  rw [exec_command_idle .calcref rfl hf, commandBody]
  by_cases h : s.clkmhz = 0 ∨ 0xFFFFFFFF < refreshCount s.params s.clkmhz.toNat s.refms.toNat
  · rw [calcRefresh_arith (s := s.clearResult 7) h, finish_clearResult_idle hf]
    exact ⟨_, _, rfl, rfl, .inr ⟨rfl, rfl, rfl⟩, fun hk => by cases hk⟩
  · obtain ⟨hz, hle⟩ := not_or.mp h
    have hcnt : (BitVec.ofNat 32 (refreshCount s.params s.clkmhz.toNat s.refms.toNat)).toNat =
        refreshCount s.params s.clkmhz.toNat s.refms.toNat := by
      rw [BitVec.toNat_ofNat, Nat.mod_eq_of_lt (by omega)]
    rw [calcRefresh_ok (s := s.clearResult 7) hz (Nat.not_lt.mp hle), finish_of_idle]
    · exact ⟨_, BitVec.ofNat 32 (refreshCount s.params s.clkmhz.toNat s.refms.toNat), rfl,
        by rw [hcnt, refreshCount_even], .inl rfl, fun _ => hcnt⟩
    · exact hf

/-! What the validator reads and writes (R121). -/

/-- The commands of the validator, the reserved encodings among them. -/
def isValidator : Instr → Bool
  | .chkrange | .chkaccB | .chkaccH | .chkaccW | .rsvdChkacc | .calcref | .rsvd _ => true
  | _ => false

theorem format_of_isValidator {i : Instr} (hi : isValidator i = true) : i.format = .cmd32 := by
  cases i with
  | chkrange | chkaccB | chkaccH | chkaccW | rsvdChkacc | calcref | rsvd => rfl
  | _ => cases hi

/-- `s` with other values in what the validator has nothing to do with. -/
def State.withConfig (a : Bool) (c0 c1 k : Word) (s : State) : State :=
  { s with attached := a, cfga0 := c0, cfga1 := c1, ctlreg := k }

theorem commandBody_withConfig {i : Instr} (hi : isValidator i = true) (a : Bool) (c0 c1 k : Word) (s : State) :
    commandBody i (s.withConfig a c0 c1 k) = (commandBody i s).withConfig a c0 c1 k := by
  cases i with
  | chkrange | rsvdChkacc | rsvd => rfl
  | chkaccB | chkaccH | chkaccW | calcref =>
    simp only [commandBody, State.checkAccess, State.calcRefresh, apply_ite (State.withConfig a c0 c1 k)]
    rfl
  | _ => cases hi

theorem checkRange_code_ne_busy (c o n : Nat) : (checkRange c o n).1 ≠ .busy := by
  obtain ⟨-, h⟩ | ⟨-, -, h⟩ | ⟨-, -, -, h⟩ | ⟨-, -, h⟩ := checkRange_cases c o n <;> rw [h] <;> decide

/-- A validator command ends at once. -/
theorem commandBody_code_ne_busy {i : Instr} (hi : isValidator i = true) (s : State) :
    (commandBody i s).result.code ≠ .busy := by
  have access (e : Nat) (s : State) : (s.checkAccess e).result.code ≠ .busy := by
    simp only [State.checkAccess]
    split
    · simp
    · split <;> exact checkRange_code_ne_busy _ _ _
  cases i with
  | chkrange => exact checkRange_code_ne_busy _ _ _
  | chkaccB | chkaccH | chkaccW => exact access _ _
  | calcref =>
    simp only [commandBody, State.calcRefresh]
    (repeat' split) <;> simp
  | rsvdChkacc | rsvd => simp [commandBody, State.reservedEncoding]
  | _ => cases hi

theorem commandBody_validator_frame {i : Instr} (hi : isValidator i = true) (hf : s.fsm = .idle) :
    commandBody i s = { s with result := (commandBody i s).result, resval := (commandBody i s).resval } := by
  obtain e | ⟨r, v, e, -⟩ | ⟨rfl, -⟩ | ⟨rfl, -⟩ | ⟨rfl, -⟩ | ⟨rfl, -⟩ := commandBody_cases i hf
  · rw [e]
  · rw [e]
  all_goals cases hi

/-- Settles O20: the pair written is the one the command writes in `s` itself. -/
theorem validatorIsPure : Obligations.ValidatorIsPure := by
  unfold Obligations.ValidatorIsPure
  intro s i op hf hi
  have hv : isValidator i = true := by
    simp only [List.mem_cons, List.not_mem_nil, or_false] at hi
    obtain rfl | rfl | rfl | rfl | rfl | rfl | rfl := hi <;> rfl
  refine ⟨(commandBody i s).result, (commandBody i s).resval, commandBody_code_ne_busy hv s, fun a c0 c1 k => ?_⟩
  have h := exec_command_idle i (format_of_isValidator hv) (s := s.withConfig a c0 c1 k) hf
  rw [commandBody_withConfig hv, commandBody_validator_frame hv hf] at h
  exact h

end Sys2Proof.Machine

/-! The edges of a running operation, one at a time: the handshake on the command port with O21, SENDCMD's answered command with
O30, and the four INIT states with no command with O33 to O36 and O38. With no host access an edge is the block's part, which
leaves `CTLREG`, the inputs and the count of free words to the controller's part (`step_quiet`). -/

namespace Sys2Proof.Machine

open Sys2Proof

variable {s : State} {p : Pins} {rest : List Edge}

/-! The command port. -/

/-- The seven commands that may be sent are all the transaction of their own word (R53, R79). -/
theorem exec_sendable {i : Instr} {t : BitVec 2} {n : BitVec 4} {m : BitVec 14}
    (hi : i ∈ [Instr.portNormal t n m, .portClkEnable t n m, .portPall t n m, .portAutorefresh t n m, .portLoadMode t n m,
      .portSelfRefresh t n m, .portPowerDown t n m]) (s : State) :
    exec i s = .next (s.ctlCmd ((encodeWord i).setWidth 23)) := by
  have hw (a : BitVec 3) : ((packPort a t n m).setWidth 32).setWidth 23 = packPort a t n m := by simp
  simp only [List.mem_cons, List.not_mem_nil, or_false] at hi
  obtain rfl | rfl | rfl | rfl | rfl | rfl | rfl := hi <;> rw [encodeWord, hw] <;> rfl

/-- Settles O21: the two phases of a transaction without an answer, and the fields of the state's port word. -/
theorem commandHandshake : Obligations.CommandHandshake := by
  unfold Obligations.CommandHandshake
  intro s i t n m hc hi
  rw [exec_sendable hi]
  refine ⟨fun hp => ⟨(quiet_of_enter hp).1, by rw [ctlCmd_enter _ hc hp]⟩,
    fun hp => ⟨cmdReq_iff.mpr ⟨hc, hp⟩, fun hd => by rw [ctlCmd_waiting _ hc hp hd], ?fields⟩⟩
  case fields =>
    obtain ⟨w, hw⟩ := portWord_of_onCmdPort hc
    refine ⟨w, hw, ?_⟩
    rw [State.cmdFields, if_pos (cmdReq_iff.mpr ⟨hc, hp⟩), hw]
    rfl

/-- Settles O30: the response of `S_CMD` at its answering edge. -/
theorem passthroughStep : Obligations.PassthroughStep := by
  unfold Obligations.PassthroughStep
  intro s i t n m hf hp hd hi
  rw [exec_sendable hi, ctlCmd_done _ (by rw [hf]; rfl) hp hd, cmdResponse_sCmd (s := s.record _) hf]
  rfl

/-! The delay (R88). -/

theorem stepDly_of_no_tick (ht : s.pins.tick = false) : s.stepDly = s := by
  simp [State.stepDly, ht]

theorem stepDly_of_last_tick (ht : s.pins.tick = true) (hd : s.dcnt = s.params.powerupDelayTicks) :
    s.stepDly = s.enter .iPall := by
  rw [State.stepDly, if_pos ht, if_pos hd]

theorem stepDly_of_tick (ht : s.pins.tick = true) (hd : s.dcnt ≠ s.params.powerupDelayTicks) :
    s.stepDly = { s with dcnt := s.dcnt + 1 } := by
  rw [State.stepDly, if_pos ht, if_neg hd]

/-- Settles O33: the three branches of the delay's rule. -/
theorem delayStep : Obligations.DelayStep := by
  unfold Obligations.DelayStep
  rintro s p rest k d hi hp hf rfl rfl
  have hb : blockNext s.fsm s.dropCtlOut = s.dropCtlOut.stepDly := by rw [hf]; rfl
  have hpins : s.dropCtlOut.pins = p := pins_clock hi
  refine ⟨fun ht => ?noTick, fun ht hd => ?last, fun ht hd => ?tick⟩
  case noTick =>
    exact step_quiet hi hp (hb.trans (stepDly_of_no_tick (s := s.dropCtlOut) (by rw [hpins, ht]))) rfl rfl rfl
  case last =>
    exact step_quiet hi hp (hb.trans (stepDly_of_last_tick (s := s.dropCtlOut) (by rw [hpins, ht]) hd)) rfl rfl rfl
  case tick =>
    exact step_quiet hi hp (hb.trans (stepDly_of_tick (s := s.dropCtlOut) (by rw [hpins, ht]) hd)) rfl rfl rfl

/-- One silent edge in `I_DLY` that is not the end of the delay. -/
theorem step_delay_holds {e : Edge} (he : e.silent = true) (hf : s.fsm = .iDly) (hi : s.inputs = e :: rest)
    (hle : s.dcnt + [e].countP Edge.ticks ≤ s.params.powerupDelayTicks) :
    ∃ t, step s = .next t ∧ t.fsm = .iDly ∧ t.dcnt = s.dcnt + [e].countP Edge.ticks ∧ t.inputs = rest ∧
      t.params = s.params := by
  obtain ⟨p, rfl, hp, -⟩ := silent_cases he
  obtain ⟨noTick, -, tick⟩ := delayStep s p rest _ _ hi hp hf rfl rfl
  cases ht : p.tick with
  | false => exact ⟨_, noTick ht, hf, by simp [Edge.ticks, ht], rfl, rfl⟩
  | true =>
    have hone : [Edge.clock p].countP Edge.ticks = 1 := by simp [Edge.ticks, ht]
    rw [hone] at hle ⊢
    exact ⟨_, tick ht (by omega), hf, rfl, rfl, rfl⟩

/-- Silent edges with no more ticks than the delay has left, also where a write is on the controller register port. -/
theorem run_delay_waits (es : List Edge) (hf : s.fsm = .iDly) (hi : s.inputs = es ++ rest)
    (hs : es.all Edge.silent = true) (hle : s.dcnt + es.countP Edge.ticks ≤ s.params.powerupDelayTicks) :
    ∃ t, runSteps es.length s = .next t ∧ t.fsm = .iDly ∧ t.dcnt = s.dcnt + es.countP Edge.ticks ∧ t.inputs = rest ∧
      t.params = s.params := by
  induction es generalizing s with
  | nil => exact ⟨s, rfl, hf, rfl, hi, rfl⟩
  | cons e es ih =>
    have hcount : (e :: es).countP Edge.ticks = [e].countP Edge.ticks + es.countP Edge.ticks := by
      rw [← List.countP_append]; rfl
    rw [hcount] at hle ⊢
    simp only [List.all_cons, Bool.and_eq_true] at hs
    obtain ⟨u, hu, huf, hud, hui, hup⟩ := step_delay_holds hs.1 hf hi (by omega)
    obtain ⟨t, ht, htf, htd, hti, htp⟩ := ih huf hui hs.2 (by rw [hud, hup]; omega)
    exact ⟨t, by simp only [List.length_cons, runSteps, hu, ht], htf, by omega, hti, htp.trans hup⟩

/-- Settles O34: up to the last tick the delay waits, and that tick ends it. -/
theorem delayHoldsItsTicks : Obligations.DelayHoldsItsTicks := by
  unfold Obligations.DelayHoldsItsTicks
  intro es rest s hf hd hi hs
  refine ⟨fun hle => ?holds, fun last hl ht hc => ?ends⟩
  case holds =>
    obtain ⟨t, hrun, htf, htd, hti, -⟩ := run_delay_waits es hf hi hs (by omega)
    exact ⟨t, hrun, htf, by omega, hti⟩
  case ends =>
    generalize es.dropLast = ws at hl
    subst hl
    simp only [List.all_append, Bool.and_eq_true, List.all_cons, List.all_nil, Bool.and_true] at hs
    have hcount : ws.countP Edge.ticks = s.params.powerupDelayTicks := by simpa [ht] using hc
    obtain ⟨u, hrun, huf, hud, hui, hup⟩ := run_delay_waits (rest := [last] ++ rest) ws hf (by simpa using hi) hs.1 (by omega)
    obtain ⟨p, rfl, hp, -⟩ := silent_cases hs.2
    obtain ⟨-, hlast, -⟩ := delayStep u p rest _ _ hui hp huf rfl rfl
    exact ⟨_, runSteps_append hrun (runSteps_one (hlast ht (by rw [hud, hup]; omega))), rfl, rfl, rfl⟩

/-! Step 5a and step 6 (R91, R93). -/

/-- Settles O35: the rule of `I_RDCAS`, on `CTLREG` as it was before the edge. -/
theorem readCasStep : Obligations.ReadCasStep := by
  unfold Obligations.ReadCasStep
  rintro s p rest m k d hi hp hf rfl rfl rfl
  have hb : blockNext s.fsm s.dropCtlOut = s.dropCtlOut.stepRdcas := by rw [hf]; rfl
  exact step_quiet hi hp hb rfl rfl rfl

/-- Settles O36: the two branches of the rule of `I_RECON`. -/
theorem reconcileStep : Obligations.ReconcileStep := by
  unfold Obligations.ReconcileStep
  rintro s p rest c e v k d hi hp hf rfl rfl rfl rfl rfl
  have hb : blockNext s.fsm s.dropCtlOut = s.dropCtlOut.stepRecon := by rw [hf]; rfl
  refine ⟨fun h => ?agrees, fun h => ?patches⟩
  case agrees => exact step_quiet hi hp (hb.trans (stepRecon_of_eq (s := s.dropCtlOut) h)) rfl rfl rfl
  case patches => exact step_quiet hi hp (hb.trans (stepRecon_of_ne (s := s.dropCtlOut) h)) rfl rfl rfl

/-! Step 7 (R94). -/

theorem stepRtr_of_enter (hp : s.cphase = .enter) : s.stepRtr = { s with cphase := .wait } := by
  simp only [State.stepRtr, hp]

theorem stepRtr_of_waiting (hp : s.cphase = .wait) (hd : s.pins.rtrDone = false) : s.stepRtr = s := by
  simp [State.stepRtr, hp, hd]

theorem stepRtr_of_done (hp : s.cphase = .wait) (hd : s.pins.rtrDone = true) {ok : Bool} (hk : s.pins.rtrOk = ok) :
    s.stepRtr = (s.record (.rtr s.lCfg1 ok)).rtrResponse ok := by
  simp [State.stepRtr, hp, hd, hk]

/-- Settles O38: the two phases of the request, and the two answers. -/
theorem refreshTimerStep : Obligations.RefreshTimerStep := by
  unfold Obligations.RefreshTimerStep
  rintro s p rest k d hi hp hf rfl rfl
  have hb : blockNext s.fsm s.dropCtlOut = s.dropCtlOut.stepRtr := by rw [hf]; rfl
  have hpins : s.dropCtlOut.pins = p := pins_clock hi
  refine ⟨fun he => ⟨(quiet_of_enter he).2, ?enter⟩,
    fun hw => ⟨if_pos (rtrReq_iff.mpr ⟨hf, hw⟩), fun hd => ?waiting⟩, fun hw hd hk => ?ok, fun hw hd hk => ?fail⟩
  case enter => exact step_quiet hi hp (hb.trans (stepRtr_of_enter (s := s.dropCtlOut) he)) rfl rfl rfl
  case waiting =>
    exact step_quiet hi hp (hb.trans (stepRtr_of_waiting (s := s.dropCtlOut) hw (by rw [hpins, hd]))) rfl rfl rfl
  case ok =>
    exact step_quiet hi hp (hb.trans (stepRtr_of_done (s := s.dropCtlOut) hw (by rw [hpins, hd]) (by rw [hpins, hk])))
      rfl rfl rfl
  case fail =>
    exact step_quiet hi hp (hb.trans (stepRtr_of_done (s := s.dropCtlOut) hw (by rw [hpins, hd]) (by rw [hpins, hk])))
      rfl rfl rfl

end Sys2Proof.Machine

/-! A whole successful INIT (R97), with O42. Each state of the sequence has a run of its own, from its entry to the entry of the
next state, as one update of the state it starts in; the runs are put together with `runSteps_append`. -/

namespace Sys2Proof.Machine

open Sys2Proof

variable {s : State} {es rest : List Edge}

/-! The commands (R87, R89, R90, R92). -/

/-- A transaction answered `Ok` whose response leads to `t`. -/
theorem run_transaction_answered {t : State} {w : PortWord} (he : IsTransaction Edge.answersCmd es)
    (hc : s.fsm.onCmdPort = true) (hw : s.portWord = some w) (h7 : portMode w ≠ 7) (hp : s.cphase = .enter)
    (ho : s.ctlOut = none) (hi : s.inputs = es ++ rest)
    (ht : { (({ s with cphase := .wait } : State).record (.cmd w true)).cmdResponse true with inputs := rest } = t) :
    runSteps es.length s = .next t := by
  rw [run_transaction he hc hw h7 hp ho hi, ht]

theorem run_iCke (he : IsTransaction Edge.answersCmd es) (hf : s.fsm = .iCke) (hp : s.cphase = .enter)
    (ho : s.ctlOut = none) (hi : s.inputs = es ++ rest) :
    runSteps es.length s = .next { s with
      dcnt := 0, fsm := .iDly, cphase := .wait, inputs := rest
      trace := .cmd (packPort 1 (latchTarget s.lCfg0) 0 0) true :: s.trace } :=
  run_transaction_answered he (by rw [hf]; rfl) (portWord_iCke hf) (by simp) hp ho hi
    (by rw [cmdResponse_iCke (s := .record _ { s with cphase := .wait }) hf]; rfl)

theorem run_iPall (he : IsTransaction Edge.answersCmd es) (hf : s.fsm = .iPall) (hp : s.cphase = .enter)
    (ho : s.ctlOut = none) (hi : s.inputs = es ++ rest) :
    runSteps es.length s = .next { s with
      fsm := .iAref, cphase := .enter, inputs := rest
      trace := .cmd (packPort 2 (latchTarget s.lCfg0) 0 0) true :: s.trace } :=
  run_transaction_answered he (by rw [hf]; rfl) (portWord_iPall hf) (by simp) hp ho hi
    (by rw [cmdResponse_iPall (s := .record _ { s with cphase := .wait }) hf]; rfl)

theorem run_iAref (he : IsTransaction Edge.answersCmd es) (hf : s.fsm = .iAref) (hp : s.cphase = .enter)
    (ho : s.ctlOut = none) (hi : s.inputs = es ++ rest) :
    runSteps es.length s = .next { s with
      fsm := .iRdcas, cphase := .wait, inputs := rest
      trace := .cmd (packPort 3 (latchTarget s.lCfg0) (arefNrfsM1 s.params) 0) true :: s.trace } :=
  run_transaction_answered he (by rw [hf]; rfl) (portWord_iAref hf) (by simp) hp ho hi
    (by rw [cmdResponse_iAref (s := .record _ { s with cphase := .wait }) hf]; rfl)

theorem run_iLmr (he : IsTransaction Edge.answersCmd es) (hf : s.fsm = .iLmr) (hp : s.cphase = .enter)
    (ho : s.ctlOut = none) (hi : s.inputs = es ++ rest) :
    runSteps es.length s = .next { s with
      fsm := .iRecon, cphase := .wait, inputs := rest
      trace := .cmd (packPort 4 (latchTarget s.lCfg0) 0 s.lMr) true :: s.trace } :=
  run_transaction_answered he (by rw [hf]; rfl) (portWord_iLmr hf) (by simp) hp ho hi
    (by rw [cmdResponse_iLmr (s := .record _ { s with cphase := .wait }) hf]; rfl)

/-! The states with no command (R91, R93, R94). -/

theorem run_iRdcas {e : Edge} (he : e.silent = true) (hf : s.fsm = .iRdcas) (ho : s.ctlOut = none)
    (hi : s.inputs = e :: rest) :
    runSteps 1 s = .next { s with
      mrcas := casCtlToMr (casField s.params.casLsb s.ctlreg), fsm := .iLmr, cphase := .enter, inputs := rest
      lMr := mrBuild s.lCfg0 (casCtlToMr (casField s.params.casLsb s.ctlreg)), trace := .ctlRead s.ctlreg :: s.trace } := by
  obtain ⟨p, rfl, hp, -, -, hw⟩ := silent_cases he
  apply runSteps_one
  rw [step_block hi hp ho hw, hf]
  rfl

theorem run_iRecon_of_eq {e : Edge} (he : e.silent = true) (hf : s.fsm = .iRecon) (ho : s.ctlOut = none)
    (hi : s.inputs = e :: rest) (h : casField s.params.casLsb s.ctlreg = casMrToCtl s.mrcas) :
    runSteps 1 s = .next { s with
      fsm := .iRtr, cphase := .enter, inputs := rest, trace := .ctlRead s.ctlreg :: s.trace } := by
  obtain ⟨p, rfl, hp, -, -, hw⟩ := silent_cases he
  apply runSteps_one
  rw [step_block hi hp ho hw, hf, blockNext, stepRecon_of_eq h]
  rfl

theorem run_iRecon_of_ne {e : Edge} (he : e.silent = true) (hf : s.fsm = .iRecon) (ho : s.ctlOut = none)
    (hi : s.inputs = e :: rest) (h : casField s.params.casLsb s.ctlreg ≠ casMrToCtl s.mrcas) :
    runSteps 1 s = .next { s with
      fsm := .iRtr, cphase := .enter, inputs := rest, result := { s.result with patched := true }
      ctlOut := some (patchCas s.params.casLsb (casMrToCtl s.mrcas) s.ctlreg)
      trace := .ctlWrite (patchCas s.params.casLsb (casMrToCtl s.mrcas) s.ctlreg) :: .ctlRead s.ctlreg :: s.trace } := by
  obtain ⟨p, rfl, hp, -, -, hw⟩ := silent_cases he
  apply runSteps_one
  rw [step_block hi hp ho hw, hf, blockNext, stepRecon_of_ne h]

/-- The request of `I_RTR` from its first cycle: waiting edges, and then the answer `Ok`. -/
theorem run_iRtr_answered {ws : List Edge} {last : Edge} (hws : ws.all Edge.silent = true) (hl : last.answersRtr = true)
    (hf : s.fsm = .iRtr) (hp : s.cphase = .wait) (ho : s.ctlOut = none) (hi : s.inputs = ws ++ ([last] ++ rest)) :
    runSteps (ws ++ [last]).length s = .next { s with
      cfga0 := initCfga0 s.lCfg0 s.mrcas, cfga1 := s.lCfg1, attached := true, fsm := .idle, inputs := rest
      result := { s.result with code := .ok, reason := .none }, trace := .rtr s.lCfg1 true :: s.trace } := by
  obtain ⟨q, rfl, hq, hd, hk, hw⟩ := answersRtr_cases hl
  refine runSteps_append (run_rtr_waiting ws hf hp ho hi hws) (runSteps_one ?_)
  obtain ⟨-, -, ok, -⟩ := refreshTimerStep { s with inputs := [.clock q] ++ rest } q rest _ _ rfl hq hf rfl rfl
  rw [ok hp hd hk]
  simp only [ho, hw, ctlEdge_none, initCfga0]

/-- `I_RTR` answered `Ok`; a write that was on the port reaches `CTLREG` in the `ENTER` cycle (R50). -/
theorem run_iRtr (he : IsTransaction Edge.answersRtr es) (hf : s.fsm = .iRtr) (hp : s.cphase = .enter)
    (hi : s.inputs = es ++ rest) :
    runSteps es.length s = .next { s with
      cfga0 := initCfga0 s.lCfg0 s.mrcas, cfga1 := s.lCfg1, attached := true, fsm := .idle, cphase := .wait
      result := { s.result with code := .ok, reason := .none }, ctlOut := none, ctlreg := s.ctlOut.getD s.ctlreg
      inputs := rest, trace := .rtr s.lCfg1 true :: s.trace } := by
  obtain ⟨ws, last, rfl, hne, hws, hl⟩ := he
  obtain ⟨e, ws, rfl⟩ := List.exists_cons_of_ne_nil hne
  simp only [List.all_cons, Bool.and_eq_true] at hws
  obtain ⟨p, rfl, h1, -, -, hw⟩ := silent_cases hws.1
  have hctl : (s.ctlEdge s.ctlOut p.ctlOther).ctlreg = s.ctlOut.getD s.ctlreg ∧
      (s.ctlEdge s.ctlOut p.ctlOther).draws = s.draws := by
    rw [hw]
    cases s.ctlOut <;> exact ⟨rfl, rfl⟩
  have hi' : s.inputs = .clock p :: (ws ++ ([last] ++ rest)) := by simpa using hi
  obtain ⟨enter, -⟩ := refreshTimerStep s p _ _ _ hi' h1 hf rfl rfl
  have first := runSteps_one (enter hp).2
  rw [hctl.1, hctl.2] at first
  exact runSteps_append (es := [.clock p]) first (run_iRtr_answered hws.2 hl hf rfl rfl rfl)

/-! The whole sequence. -/

/-- INIT from its first state to `I_RECON`. -/
theorem run_init_to_recon {c : InitSchedule} (hc : c.Succeeds s.params.powerupDelayTicks) (hf : s.fsm = .iCke)
    (hp : s.cphase = .enter) (ho : s.ctlOut = none)
    (hi : s.inputs = c.cke ++ c.delay ++ c.pall ++ c.aref ++ [c.rdcas] ++ c.lmr ++ rest) :
    runSteps (c.cke ++ c.delay ++ c.pall ++ c.aref ++ [c.rdcas] ++ c.lmr).length s = .next { s with
      dcnt := s.params.powerupDelayTicks, fsm := .iRecon, cphase := .wait, inputs := rest
      mrcas := casCtlToMr (casField s.params.casLsb s.ctlreg)
      lMr := mrBuild s.lCfg0 (casCtlToMr (casField s.params.casLsb s.ctlreg))
      trace := [.cmd (packPort 4 (latchTarget s.lCfg0) 0
            (mrBuild s.lCfg0 (casCtlToMr (casField s.params.casLsb s.ctlreg)))) true,
          .ctlRead s.ctlreg, .cmd (packPort 3 (latchTarget s.lCfg0) (arefNrfsM1 s.params) 0) true,
          .cmd (packPort 2 (latchTarget s.lCfg0) 0 0) true, .cmd (packPort 1 (latchTarget s.lCfg0) 0 0) true] ++
        s.trace } := by
  simp only [List.append_assoc] at hi
  have cke := run_iCke hc.cke hf hp ho hi
  have delay := runSteps_append cke (run_delay hc.delay rfl rfl ho rfl)
  have pall := runSteps_append delay (run_iPall hc.pall rfl rfl ho rfl)
  have aref := runSteps_append pall (run_iAref hc.aref rfl rfl ho rfl)
  have rdcas := runSteps_append (fs := [c.rdcas]) aref (run_iRdcas hc.rdcas rfl ho rfl)
  exact runSteps_append rdcas (run_iLmr hc.lmr rfl rfl ho rfl)

/-- The edge that accepts INIT in `IDLE` (R85). -/
theorem step_accepts_init {v : Word} {p : Pins} (hf : s.fsm = .idle) (ho : s.ctlOut = none) (hv : cfgValid s.cfg0 = true)
    (hd : decodeCmd v = .init) (hi : s.inputs = .clock p :: rest) (hp : p.host = some (.write .word 0 v))
    (hw : p.ctlOther = none) :
    step s = .next { s with
      lCfg0 := s.cfg0.extractLsb' 0 14, lCfg1 := s.cfg1, attached := false
      result := { resultOfOp 1 with code := .busy }, resval := 0, fsm := .iCke, cphase := .enter, inputs := rest } := by
  have hdrop : s.dropCtlOut = s := by rw [State.dropCtlOut, ← ho]
  have hexec : exec (decodeCmd v) s.dropCtlOut = exec .init s := by rw [hd, hdrop]
  rw [stepRunsDecodedInstruction.2.1 s p rest v hi hp hf _ (hexec.trans ((initAcceptance.2 s hf).2 hv)), hw]
  simp only [ho, ctlEdge_none, State.advance, hi, List.tail_cons]
  rfl

/-- The target of the latched configuration is the one staged (R82). -/
theorem latchTarget_extractLsb' (v : Word) : latchTarget (v.extractLsb' 0 14) = v.extractLsb' 12 2 := by
  apply BitVec.eq_of_getLsbD_eq; intro i hi
  simp [latchTarget, hi]

/-- Settles O42: the accepting edge, the run to `I_RECON`, the edge of `I_RECON` with its two branches, and `I_RTR`. -/
theorem successfulInitRun : Obligations.SuccessfulInitRun := by
  unfold Obligations.SuccessfulInitRun
  rintro s v c rest tgt m mr n patch hf ho hv hd hc hi rfl hn rfl rfl rfl
  obtain rfl := eq_arefNrfsM1 hn
  have accept := runSteps_one (step_accepts_init hf ho hv hd hi rfl rfl)
  have toRecon := run_init_to_recon (rest := [c.recon] ++ (c.rtr ++ rest)) (s := { s with
    lCfg0 := s.cfg0.extractLsb' 0 14, lCfg1 := s.cfg1, attached := false
    result := { resultOfOp 1 with code := .busy }, resval := 0, fsm := .iCke, cphase := .enter
    inputs := c.edges ++ rest }) hc rfl rfl ho (by simp [InitSchedule.edges])
  rw [latchTarget_extractLsb'] at toRecon
  rw [Nat.add_comm, runSteps_add _ _ accept]
  by_cases h : casField s.params.casLsb s.ctlreg =
      casMrToCtl (casCtlToMr (casField s.params.casLsb s.ctlreg))
  · have recon := runSteps_append (fs := [c.recon]) toRecon (run_iRecon_of_eq hc.recon rfl ho rfl h)
    refine ⟨_, runSteps_append recon (run_iRtr hc.rtr rfl rfl rfl), rfl, rfl, rfl, rfl, rfl, rfl, rfl, fun _ => ?_,
      fun hne => absurd h hne⟩
    exact ⟨by simp only [ho, Option.getD_none], rfl, rfl⟩
  · have recon := runSteps_append (fs := [c.recon]) toRecon (run_iRecon_of_ne hc.recon rfl ho rfl h)
    exact ⟨_, runSteps_append recon (run_iRtr hc.rtr rfl rfl rfl), rfl, rfl, rfl, rfl, rfl, rfl, rfl,
      fun heq => absurd heq h, fun _ => ⟨rfl, rfl, rfl⟩⟩

end Sys2Proof.Machine
